-- ==== Sys2Proof/Word.lean ====
section
/-! DEFINITION. The word types of the block: bytes, colour indices, palette entries and output pixel records. -/

namespace Sys2Proof

/-- A byte of CG, SB or CA (00_scope.md R10). -/
abbrev Byte := BitVec 8

/-- CIDX, a colour index: 4 bits, every value legal (30_encoding.md R85). -/
abbrev Color := BitVec 4

/-- RGB888, a palette entry (30_encoding.md R86). -/
structure Rgb where
  r : Byte
  g : Byte
  b : Byte
  deriving DecidableEq, Repr, Inhabited

/-- One pixel record of the output surface (20_memory.md R54). -/
structure PixelRecord where
  idx : Color
  r : Byte
  g : Byte
  b : Byte
  a : Byte
  deriving DecidableEq, Repr, Inhabited

end Sys2Proof
end

