-- ==== Sys2Proof/Config.lean ====
section
/-! DEFINITION. The parameters of the hardware (00_scope.md R5), the configuration a platform fixes, and the open parameters PALETTE and FB_PACK. -/

namespace Sys2Proof.Config

/-- OUT_W, output frame width in pixels (00_scope.md R5). -/
@[simp] abbrev outW : Nat := 384
/-- OUT_H, output frame height in pixels. -/
@[simp] abbrev outH : Nat := 272
/-- VIS_W, visible area width. -/
@[simp] abbrev visW : Nat := 320
/-- VIS_H, visible area height. -/
@[simp] abbrev visH : Nat := 200
/-- BORDER_L, the border offset subtracted from x. -/
@[simp] abbrev borderL : Nat := 32
/-- BORDER_T, the border offset subtracted from y. -/
@[simp] abbrev borderT : Nat := 36
/-- TILE, the tile edge in pixels. -/
@[simp] abbrev tileEdge : Nat := 8
/-- COLS, tiles per text row. -/
@[simp] abbrev cols : Nat := 40
/-- ROWS, text rows. -/
@[simp] abbrev rows : Nat := 25
/-- CG_SIZE, bytes in the character-generator region (90_conflicts.md C1). -/
@[simp] abbrev cgSize : Nat := 4096
/-- CG_USED, the bytes of it the block can address. -/
@[simp] abbrev cgUsed : Nat := 2048
/-- SB_SIZE = NCELL, bytes in the screen buffer. -/
@[simp] abbrev sbSize : Nat := 1000
/-- CA_SIZE, slots in the colour-attribute table. -/
@[simp] abbrev caSize : Nat := 1024
/-- NPIX, pixels per frame: OUT_W x OUT_H. -/
@[simp] abbrev npix : Nat := 104448

/-- ATTR_HI_POLICY (00_scope.md R5, 30_encoding.md R84): what bits 7:4 of an attribute byte do. -/
inductive AttrHiPolicy where
  /-- The bits are ignored: the spec's choice. -/
  | mask
  /-- A byte with any of them set is refused: the alternative the spec names. -/
  | refuse
  deriving DecidableEq, Repr

/-- What the platform provides and fixes while the hardware is out of reset (20_memory.md R66,
60_exceptions.md R202 "Configure"): the sizes of the three input memories, and ATTR_HI_POLICY. -/
structure Platform where
  cgBytes : Nat
  sbBytes : Nat
  caBytes : Nat
  attrHi : AttrHiPolicy
  deriving DecidableEq, Repr

/-- PALETTE (10_state.md R31, log 7): 16 fixed entries whose values no source gives. It has no body, so
nothing can be proved of any of its values; two entries may be equal. -/
opaque palette : Color → Rgb

/-- FB_PACK (20_memory.md R54, log 17): how a pixel record is packed into surface bytes, open. -/
opaque fbPack : PixelRecord → List Byte

/-- The three input memories (20_memory.md R50). -/
inductive InputSpace where
  | cg | sb | ca
  deriving DecidableEq, Repr

/-- The two sets of display-state registers: `x` (10_state.md R21) and `p` (R22). -/
inductive RegisterSet where
  | active | pending
  deriving DecidableEq, Repr

/-- What a colour register (slots 0 to 3) holds that nothing has written since the reset with this number (`any value`
of 93_implementation_defined.md U1, log 2): a free value. -/
opaque unwrittenColor (reset : Nat) (set : RegisterSet) (slot : Fin 4) : Color

/-- What a MODE register holds that nothing has written since the reset with this number (U1, log 2): a free value. -/
opaque unwrittenMode (reset : Nat) (set : RegisterSet) : BitVec 1

/-- What a byte of an input memory holds that nothing has written since the reset with this number (`any value`
of 93_implementation_defined.md U1, log 4). A free value: it has no body, so a claim is true whatever it is. -/
opaque unwrittenByte (reset : Nat) (space : InputSpace) (a : Nat) : Byte

/-- What a cell of FB holds that nothing has written since the reset with this number (U1, log 4): a free value. -/
opaque unwrittenRecord (reset : Nat) (a : Nat) : PixelRecord

end Sys2Proof.Config
end

