-- ==== Sys2Proof/Syntax.lean ====
section
/-! DEFINITION. The operations of the block (one constructor per row of spec/opcode_table.json), where an encoded operation is found, and the moves of the two agents. -/

namespace Sys2Proof

/-- The 26 operations of 30_encoding.md R90. The STAGE and SEL words are assembled by the hardware from
its own state, so the rows of those formats have no operand. The bits an HC pattern ignores are kept as
operands (`ign`), so that every host word is the encoding of exactly one instruction. -/
inductive Instr where
  /-- LCOORD, logical coordinate (40_border_detect.md R110). -/
  | lcoord
  /-- BORDER, border test (40_border_detect.md R111). -/
  | border
  /-- TILE, tile split and tile index (41_tile_fetch.md R120, R121). -/
  | tile
  /-- SCODE, screen-code fetch (41_tile_fetch.md R122). -/
  | scode
  /-- GROW, glyph-row fetch (41_tile_fetch.md R123). -/
  | grow
  /-- ATTR, attribute fetch (41_tile_fetch.md R124). -/
  | attr
  /-- UNPACK.H, hires bit extract (42_unpack.md R135). -/
  | unpackH
  /-- UNPACK.M, multicolor pair extract (42_unpack.md R136). -/
  | unpackM
  /-- PAL, palette resolve and pixel write (43_color_select.md R158). -/
  | pal
  /-- PX.BORDER (43_color_select.md R151). -/
  | pxBorder
  /-- PX.HBG, hires background (43_color_select.md R152). -/
  | pxHbg
  /-- PX.HFG, hires foreground (43_color_select.md R153). -/
  | pxHfg
  /-- PX.MBG0, multicolor pair value 0 (43_color_select.md R154). -/
  | pxMbg0
  /-- PX.MBG1, multicolor pair value 1 (43_color_select.md R155). -/
  | pxMbg1
  /-- PX.MBG2, multicolor pair value 2 (43_color_select.md R156). -/
  | pxMbg2
  /-- PX.MFG, multicolor pair value 3 (43_color_select.md R157). -/
  | pxMfg
  /-- WR.BORDER c (44_frame_control.md R166). -/
  | wrBorder (c : Color)
  /-- WR.BG0 c (44_frame_control.md R167). -/
  | wrBg0 (c : Color)
  /-- WR.BG1 c (44_frame_control.md R168). -/
  | wrBg1 (c : Color)
  /-- WR.BG2 c (44_frame_control.md R169). -/
  | wrBg2 (c : Color)
  /-- WR.MODE m, `ign` = d[3:1] (44_frame_control.md R170). -/
  | wrMode (ign : BitVec 3) (m : BitVec 1)
  /-- START, `ign` = d[3:1] (44_frame_control.md R171). -/
  | start (ign : BitVec 3)
  /-- CTRL.NOP, `ign` = d[3:1] (44_frame_control.md R172). -/
  | ctrlNop (ign : BitVec 3)
  /-- WR.RSVD: a write of `d` to slot `a`, 6 or 7 (44_frame_control.md R173). -/
  | wrRsvd (a : BitVec 3) (d : BitVec 4)
  /-- RD a, `ign` = d[3:0] (44_frame_control.md R174). -/
  | rd (a : BitVec 3) (ign : BitVec 4)
  /-- STEP, the raster step (44_frame_control.md R175); it has no encoding. -/
  | step
  deriving DecidableEq, Repr

/-- The positions of the pixel pipeline, in the order of 30_encoding.md R90: UNPACK.H and UNPACK.M share
one (exactly one of them runs), and the colour-source selection by SEL stands between it and PAL. -/
inductive Slot where
  | lcoord | border | tile | scode | grow | attr | unpack | select | pal
  deriving DecidableEq, Repr

/-- An encoded operation as the block meets it (30_encoding.md R80): the STAGE word at a pipeline
position, the SEL word, the HC word, or the raster step, which nothing selects. -/
inductive Code where
  | stage (slot : Slot) (w : BitVec 2)
  | sel (w : BitVec 4)
  | hc (w : BitVec 8)
  | raster
  deriving DecidableEq, Repr

/-- A move of the host that is not a command of the block (30_encoding.md R93, 60_exceptions.md R202):
its own memory accesses, reset, and a change of the regions' sizes. Address widths: 10_state.md R32. -/
inductive HostAccess where
  | setCG (a : BitVec 12) (b : Byte)
  | setSB (a : BitVec 10) (b : Byte)
  | setCA (a : BitVec 10) (b : Byte)
  | getFB (a : BitVec 17)
  | reset
  | resize (cg sb ca : Nat)
  deriving DecidableEq, Repr

/-- Who moves next (44_frame_control.md R165: the agents' steps interleave in some order, each atomic). -/
inductive Turn where
  /-- The host presents this HC word. -/
  | command (w : BitVec 8)
  /-- The host makes an access of its own. -/
  | access (m : HostAccess)
  /-- The rasterizer makes one raster step. -/
  | raster
  /-- The rasterizer makes one pipeline stage of a raster step (the finer grain of 92_eei_decisions.md D1). -/
  | stage
  deriving DecidableEq, Repr

end Sys2Proof
end

