-- ==== Sys2Proof/WellFormed.lean ====
section
/-! DEFINITION. The checks on syntax and configuration: which instructions have an encoding, and which platforms the hardware can be started on. -/

namespace Sys2Proof

/-- An instruction is well-formed when the table has an encoding of it: WR.RSVD is a write to slot 6 or
slot 7 (30_encoding.md R87); every other operand is exactly as wide as its field. -/
def Instr.wellFormed : Instr → Bool
  | .wrRsvd a _ => a == 6#3 || a == 7#3
  | _ => true

/-- The three regions are there at their full sizes (20_memory.md R66). -/
def Config.Platform.wellFormed (p : Config.Platform) : Bool :=
  decide (Config.cgSize ≤ p.cgBytes) && decide (Config.sbSize ≤ p.sbBytes) && decide (Config.caSize ≤ p.caBytes)

end Sys2Proof
end

