-- ==== Sys2Proof/Decode.lean ====
section
/-! DEFINITION. The decoders of the STAGE, SEL and HC words, the encoder, and the opcode table's rows. -/

namespace Sys2Proof

/-- Why a word selects no operation. -/
inductive Reject where
  /-- The STAGE word does not meet the condition of the stage at this position: it does not run (30_encoding.md R90). -/
  | stageSkipped
  /-- SEL = 001-, never assembled, no colour (30_encoding.md R91). -/
  | reservedSelector
  /-- The selection position is decoded by SEL, not by STAGE. -/
  | notAStage
  deriving DecidableEq, Repr

/-- Decoding of the STAGE word `{inb, m}` at a pipeline position (30_encoding.md R90). -/
def decodeStage (slot : Slot) (w : BitVec 2) : Except Reject Instr :=
  match slot with
  | .lcoord => .ok .lcoord
  | .border => .ok .border
  | .tile => if w.getLsbD 1 then .error .stageSkipped else .ok .tile
  | .scode => if w.getLsbD 1 then .error .stageSkipped else .ok .scode
  | .grow => if w.getLsbD 1 then .error .stageSkipped else .ok .grow
  | .attr => if w.getLsbD 1 then .error .stageSkipped else .ok .attr
  | .unpack =>
    if w.getLsbD 1 then .error .stageSkipped else if w.getLsbD 0 then .ok .unpackM else .ok .unpackH
  | .select => .error .notAStage
  | .pal => .ok .pal

/-- Decoding of the SEL word `{inb, m, v[1:0]}` (30_encoding.md R88). -/
def decodeSel (w : BitVec 4) : Except Reject Instr :=
  if w.getLsbD 3 then .ok .pxBorder
  else if w = 0b0000#4 then .ok .pxHbg
  else if w = 0b0001#4 then .ok .pxHfg
  else if w = 0b0100#4 then .ok .pxMbg0
  else if w = 0b0101#4 then .ok .pxMbg1
  else if w = 0b0110#4 then .ok .pxMbg2
  else if w = 0b0111#4 then .ok .pxMfg
  else .error .reservedSelector

/-- Decoding of the host command word `we a[2:0] d[3:0]`, total on all 256 words (30_encoding.md R87). -/
def decodeHc (w : BitVec 8) : Instr :=
  let we := w.getLsbD 7
  let a := w.extractLsb' 4 3
  let d := w.extractLsb' 0 4
  if !we then .rd a d
  else if a = 0#3 then .wrBorder d
  else if a = 1#3 then .wrBg0 d
  else if a = 2#3 then .wrBg1 d
  else if a = 3#3 then .wrBg2 d
  else if a = 4#3 then .wrMode (d.extractLsb' 1 3) (d.extractLsb' 0 1)
  else if a = 5#3 then
    (if d.getLsbD 0 then .start (d.extractLsb' 1 3) else .ctrlNop (d.extractLsb' 1 3))
  else .wrRsvd a d

/-- The decoder of an encoded operation of any format. -/
def decode : Code → Except Reject Instr
  | .stage slot w => decodeStage slot w
  | .sel w => decodeSel w
  | .hc w => .ok (decodeHc w)
  | .raster => .ok .step

/-- The encoding of an instruction, from the patterns of 30_encoding.md R87, R88 and R90. A bit a STAGE
or SEL pattern ignores is 0; a bit an HC pattern ignores is the instruction's own operand. -/
def encode : Instr → Code
  | .lcoord => .stage .lcoord 0b00#2
  | .border => .stage .border 0b00#2
  | .tile => .stage .tile 0b00#2
  | .scode => .stage .scode 0b00#2
  | .grow => .stage .grow 0b00#2
  | .attr => .stage .attr 0b00#2
  | .unpackH => .stage .unpack 0b00#2
  | .unpackM => .stage .unpack 0b01#2
  | .pal => .stage .pal 0b00#2
  | .pxBorder => .sel 0b1000#4
  | .pxHbg => .sel 0b0000#4
  | .pxHfg => .sel 0b0001#4
  | .pxMbg0 => .sel 0b0100#4
  | .pxMbg1 => .sel 0b0101#4
  | .pxMbg2 => .sel 0b0110#4
  | .pxMfg => .sel 0b0111#4
  | .wrBorder c => .hc (0b1000#4 ++ c)
  | .wrBg0 c => .hc (0b1001#4 ++ c)
  | .wrBg1 c => .hc (0b1010#4 ++ c)
  | .wrBg2 c => .hc (0b1011#4 ++ c)
  | .wrMode ign m => .hc (0b1100#4 ++ ign ++ m)
  | .start ign => .hc (0b1101#4 ++ ign ++ 1#1)
  | .ctrlNop ign => .hc (0b1101#4 ++ ign ++ 0#1)
  | .wrRsvd a d => .hc (1#1 ++ a ++ d)
  | .rd a ign => .hc (0#1 ++ a ++ ign)
  | .step => .raster

/-- The formats of spec/opcode_table.json that select an operation. -/
inductive Format where
  | stage | sel | hc | none
  deriving DecidableEq, Repr

/-- One row of spec/opcode_table.json. -/
structure TableRow where
  mnemonic : String
  format : Format
  matchBits : Nat
  maskBits : Nat
  deriving DecidableEq, Repr

/-- The row of spec/opcode_table.json an instruction stands for. -/
def Instr.tableRow : Instr → TableRow
  | .lcoord => ⟨"LCOORD", .stage, 0x0, 0x0⟩
  | .border => ⟨"BORDER", .stage, 0x0, 0x0⟩
  | .tile => ⟨"TILE", .stage, 0x0, 0x2⟩
  | .scode => ⟨"SCODE", .stage, 0x0, 0x2⟩
  | .grow => ⟨"GROW", .stage, 0x0, 0x2⟩
  | .attr => ⟨"ATTR", .stage, 0x0, 0x2⟩
  | .unpackH => ⟨"UNPACK.H", .stage, 0x0, 0x3⟩
  | .unpackM => ⟨"UNPACK.M", .stage, 0x1, 0x3⟩
  | .pal => ⟨"PAL", .stage, 0x0, 0x0⟩
  | .pxBorder => ⟨"PX.BORDER", .sel, 0x8, 0x8⟩
  | .pxHbg => ⟨"PX.HBG", .sel, 0x0, 0xF⟩
  | .pxHfg => ⟨"PX.HFG", .sel, 0x1, 0xF⟩
  | .pxMbg0 => ⟨"PX.MBG0", .sel, 0x4, 0xF⟩
  | .pxMbg1 => ⟨"PX.MBG1", .sel, 0x5, 0xF⟩
  | .pxMbg2 => ⟨"PX.MBG2", .sel, 0x6, 0xF⟩
  | .pxMfg => ⟨"PX.MFG", .sel, 0x7, 0xF⟩
  | .wrBorder _ => ⟨"WR.BORDER", .hc, 0x80, 0xF0⟩
  | .wrBg0 _ => ⟨"WR.BG0", .hc, 0x90, 0xF0⟩
  | .wrBg1 _ => ⟨"WR.BG1", .hc, 0xA0, 0xF0⟩
  | .wrBg2 _ => ⟨"WR.BG2", .hc, 0xB0, 0xF0⟩
  | .wrMode _ _ => ⟨"WR.MODE", .hc, 0xC0, 0xF0⟩
  | .start _ => ⟨"START", .hc, 0xD1, 0xF1⟩
  | .ctrlNop _ => ⟨"CTRL.NOP", .hc, 0xD0, 0xF1⟩
  | .wrRsvd _ _ => ⟨"WR.RSVD", .hc, 0xE0, 0xE0⟩
  | .rd _ _ => ⟨"RD", .hc, 0x0, 0x80⟩
  | .step => ⟨"STEP", .none, 0x0, 0x0⟩

/-- The word of a code, as the table numbers its bits. -/
def Code.word : Code → Nat
  | .stage _ w => w.toNat
  | .sel w => w.toNat
  | .hc w => w.toNat
  | .raster => 0

/-- The format of a code. -/
def Code.format : Code → Format
  | .stage _ _ => .stage
  | .sel _ => .sel
  | .hc _ => .hc
  | .raster => .none

/-- A row's pattern matches a word. -/
def TableRow.accepts (r : TableRow) (w : Nat) : Bool := (w &&& r.maskBits) == r.matchBits

/-- The nine HC rows of 30_encoding.md R87. -/
def hcRows : List TableRow :=
  [Instr.tableRow (.wrBorder 0), Instr.tableRow (.wrBg0 0), Instr.tableRow (.wrBg1 0), Instr.tableRow (.wrBg2 0),
   Instr.tableRow (.wrMode 0 0), Instr.tableRow (.start 0), Instr.tableRow (.ctrlNop 0), Instr.tableRow (.wrRsvd 6 0),
   Instr.tableRow (.rd 0 0)]

/-- The pipeline position at which a bare STAGE word is tried when no position is given (log 15): the one
whose rows fix both of its bits, or the first one for a border pixel's word. -/
def slotOfStageWord (w : BitVec 2) : Slot := if w.getLsbD 1 then .lcoord else .unpack

/-- Where an opcode-table word of `nbits` bits stands (log 15): the raster step for none, a STAGE word for
two, a SEL word for four, a host command word for eight. -/
def codeOfTableWord (nbits w : Nat) : Option Code :=
  if nbits = 0 then (if w = 0 then some .raster else none)
  else if nbits ≤ 2 then
    (if w < 4 then some (.stage (slotOfStageWord (BitVec.ofNat 2 w)) (BitVec.ofNat 2 w)) else none)
  else if nbits ≤ 4 then (if w < 16 then some (.sel (BitVec.ofNat 4 w)) else none)
  else (if w < 256 then some (.hc (BitVec.ofNat 8 w)) else none)

/-- The instruction the decoder reads from an opcode-table word. -/
def decodeTableWord (nbits w : Nat) : Option Instr :=
  match codeOfTableWord nbits w with
  | some c => (match decode c with | .ok i => some i | .error _ => none)
  | none => none

end Sys2Proof
end

