-- ==== Sys2Proof/Machine/State.lean ====
section
/-! DEFINITION. The state of the machine as plain data, the reasons a step can stop, and the state after reset. -/

namespace Sys2Proof.Machine

/-- The five display-state registers, in the order of 10_state.md R21: `x[0]` to `x[4]`. -/
structure DisplayRegs where
  border : Color
  bg0 : Color
  bg1 : Color
  bg2 : Color
  mode : BitVec 1
  deriving DecidableEq, Repr

/-- Which pending registers have been written since reset: the model's own (log 3), so that the host's boot duty of
70_reset_and_hazards.md R222 can be spoken of. No instruction reads it. -/
structure PendingWritten where
  border : Bool
  bg0 : Bool
  bg1 : Bool
  bg2 : Bool
  mode : Bool
  deriving DecidableEq, Repr

/-- RUN (10_state.md R26). -/
inductive RunFlag where
  | idle | busy
  deriving DecidableEq, Repr

/-- What the tile split gives (41_tile_fetch.md R120, R121). -/
structure TileSplit where
  col : BitVec 6
  row : BitVec 5
  wc : BitVec 3
  wr : BitVec 3
  index : BitVec 10
  deriving DecidableEq, Repr

/-- The pixel in progress: the next pipeline position and the intermediate values of 30_encoding.md R89
that the stages so far have given. The model's own (log 8): between two raster steps it is `PixelLatch.empty`. -/
structure PixelLatch where
  slot : Slot
  lx : Int
  ly : Int
  inb : BitVec 1
  tile : TileSplit
  g : Byte
  b : Byte
  a : Byte
  fg : Color
  v : BitVec 2
  idx : Color
  deriving DecidableEq, Repr

/-- No pixel in progress. -/
def PixelLatch.empty : PixelLatch where
  slot := .lcoord
  lx := 0
  ly := 0
  inb := 0
  tile := ⟨0, 0, 0, 0, 0⟩
  g := 0
  b := 0
  a := 0
  fg := 0
  v := 0
  idx := 0

/-- Why the machine stops with a fault. -/
inductive Fault where
  /-- An access to an address the space does not have: SB 1000..1023 (20_memory.md R52) or FB from 104448
  (R54). Raised by the host accesses SET SB and GET FB, and by SCODE where its tile index is out of range,
  which no pipeline state reached from reset gives. Safe: the machine stops (log 13). -/
  | absentAddress
  /-- TILE applied to a coordinate outside the visible area, which has no tile (41_tile_fetch.md R126).
  Raised by TILE only where BORDER has not run before it. Safe: the machine stops (log 13). -/
  | tileOutside
  deriving DecidableEq, Repr

/-- Why the machine gives a situation no meaning. -/
inductive Refusal where
  /-- No meaning yet for the instruction; raised by exec only. Safe. -/
  | notModelled (mnemonic : String)
  /-- The platform's regions are smaller than required (20_memory.md R66, 93_implementation_defined.md U13);
  raised by every step. Safe. -/
  | illFormedConfiguration
  /-- A host write to CG, SB, CA or a host read of FB while RUN = BUSY (20_memory.md R65,
  93_implementation_defined.md U2, U3); raised by the host accesses. Safe. -/
  | hostAccessDuringFrame
  /-- A change of the regions' sizes or places while the hardware is out of reset (U9); raised by the host
  access resize. Safe. -/
  | resizedOutOfReset
  /-- SEL = 001-, a word the hardware never assembles and gives no colour (30_encoding.md R91, U8); raised by
  the selection stage of a step. Safe. -/
  | reservedSelector
  /-- An attribute byte with any of bits 7:4 set, under ATTR_HI_POLICY = refuse (U4); raised by ATTR and
  STEP. Safe. -/
  | attributeHighBits
  deriving DecidableEq, Repr

/-- The state: the fields of 10_state.md R20 (`x` to `fb`) and the model's own (`pw`, and from `resets` on).
CG, SB and CA are lists of (address, byte), FB of (address, record), in the canonical form `State.memWf`. -/
structure State where
  /-- Active display-state registers (R21). -/
  x : DisplayRegs
  /-- Pending display-state registers (R22). -/
  p : DisplayRegs
  /-- Which pending registers have been written since reset. -/
  pw : PendingWritten
  /-- Raster position (R25). -/
  pc : Fin Config.npix
  /-- Run flag (R26). -/
  run : RunFlag
  /-- Frame-complete flag (R26). -/
  done : Bool
  /-- Character generator (20_memory.md R51). -/
  cg : List Host.Cell
  /-- Screen buffer (R52). -/
  sb : List Host.Cell
  /-- Colour-attribute table (R53). -/
  ca : List Host.Cell
  /-- Output surface (R54). -/
  fb : List (Nat × PixelRecord)
  /-- How many resets there have been since power-up: it picks the free values of what nothing has written since the
  last one (logs 2 and 4). -/
  resets : Nat
  /-- The pixel in progress. -/
  pix : PixelLatch
  /-- What the read port last returned (44_frame_control.md R165, R174). -/
  rd : BitVec 4
  /-- What the host's last GET FB returned. -/
  got : Option PixelRecord
  /-- The host script and the interleaving still to come. -/
  turns : List Turn
  /-- The configuration, fixed while out of reset. -/
  platform : Config.Platform
  deriving DecidableEq, Repr

/-- The display registers after the reset with this number: the spec leaves them unspecified (10_state.md R35), and they
hold free values (log 2). -/
def DisplayRegs.atReset (reset : Nat) (set : Config.RegisterSet) : DisplayRegs where
  border := Config.unwrittenColor reset set 0
  bg0 := Config.unwrittenColor reset set 1
  bg1 := Config.unwrittenColor reset set 2
  bg2 := Config.unwrittenColor reset set 3
  mode := Config.unwrittenMode reset set

/-- The platform the hardware is specified for: the sizes and ATTR_HI_POLICY = mask of 00_scope.md R5. -/
def platformAtReset : Config.Platform := ⟨Config.cgSize, Config.sbSize, Config.caSize, .mask⟩

/-- The machine right after the reset with this number (10_state.md R35): RUN = IDLE, DONE = 0, pc = 0, registers,
memories and surface with nothing written, no host move pending. -/
def State.afterReset (reset : Nat) : State where
  x := DisplayRegs.atReset reset .active
  p := DisplayRegs.atReset reset .pending
  pw := ⟨false, false, false, false, false⟩
  pc := ⟨0, by decide⟩
  run := .idle
  done := false
  cg := []
  sb := []
  ca := []
  fb := []
  resets := reset
  pix := PixelLatch.empty
  rd := 0
  got := none
  turns := []
  platform := platformAtReset

/-- The machine at power-up, which is reset number 0 (log 4). -/
def State.reset : State := State.afterReset 0

end Sys2Proof.Machine
end

