-- ==== Sys2Proof/Machine/Ops.lean ====
section
/-! DEFINITION. The named operations over memory, registers and outcomes. The block has no exception, no trap entry and no
return from one (60_exceptions.md R190, R195, R196), so there is no operation here that takes one: every stop is a host's breach of
contract (a refusal) or an address that does not exist (a fault). -/

namespace Sys2Proof.Machine

/-- What a step of the machine answers. -/
abbrev Answer := Host.Outcome State Fault Refusal

/-- Why an operation inside an instruction stops. -/
inductive Stop where
  | fault (f : Fault)
  | refusal (r : Refusal)
  deriving DecidableEq, Repr

/-- A stop as the outcome of the whole step. -/
def Stop.answer : Stop → Answer
  | .fault f => .fault f
  | .refusal r => .refused r

/-- Continue with the value an operation gives, or stop with it. -/
def withValue {α : Type} (e : Except Stop α) (k : α → Answer) : Answer :=
  match e with
  | .ok v => k v
  | .error stop => stop.answer

/-- What the step still does to the next state of an outcome; a stop stays as it is. -/
def mapNext (o : Answer) (f : State → State) : Answer :=
  match o with
  | .next s => .next (f s)
  | .fault f => .fault f
  | .refused r => .refused r

/-- The next state of an outcome, if there is one. -/
def nextState? (o : Answer) : Option State :=
  match o with
  | .next s => some s
  | _ => none

/-- The refusal of an outcome, if it is one. -/
def refusal? (o : Answer) : Option Refusal :=
  match o with
  | .refused r => some r
  | _ => none

/-! ### Memories: lists of the (address, value) pairs written since reset, addresses strictly rising; what an unlisted
address holds is a free value (log 4). -/

/-- The value at an address, none where nothing has been written since reset. -/
def memRead {α : Type} : List (Nat × α) → Nat → Option α
  | [], _ => none
  | (b, w) :: m, a => if a = b then some w else memRead m a

/-- Write a value, keeping the addresses rising. -/
def memWrite {α : Type} : List (Nat × α) → Nat → α → List (Nat × α)
  | [], a, v => [(a, v)]
  | (b, w) :: m, a, v =>
    if a < b then (a, v) :: (b, w) :: m
    else if a = b then (a, v) :: m
    else (b, w) :: memWrite m a v

/-- The canonical form of a memory of `size` addresses. -/
abbrev MemWf {α : Type} (size : Nat) (m : List (Nat × α)) : Prop :=
  m.Pairwise (fun c d => c.1 < d.1) ∧ ∀ c ∈ m, c.1 < size

/-- The canonical form of all four spaces (10_state.md R32). -/
abbrev State.memWf (s : State) : Prop :=
  MemWf Config.cgSize s.cg ∧ MemWf Config.sbSize s.sb ∧ MemWf Config.caSize s.ca ∧ MemWf Config.npix s.fb

/-- Every address below `n` has been written since reset. -/
def covers {α : Type} (m : List (Nat × α)) (n : Nat) : Bool :=
  (List.range n).all fun a => (memRead m a).isSome

/-- What a byte of an input memory holds: the byte written, or the free value of an unwritten one
(`any value` of 93_implementation_defined.md U1). -/
def State.byteIn (s : State) (space : Config.InputSpace) (m : List Host.Cell) (a : Nat) : Byte :=
  (memRead m a).getD (Config.unwrittenByte s.resets space a)

/-- What a cell of FB holds: the record written, or the free value of an unwritten cell (U1). -/
def State.recordIn (s : State) (a : Nat) : PixelRecord :=
  (memRead s.fb a).getD (Config.unwrittenRecord s.resets a)

/-- MemRead(SB:a, 1) (20_memory.md R50): addresses 1000..1023 do not exist (R52). -/
def readSB (s : State) (a : BitVec 10) : Except Stop Byte :=
  if a.toNat < Config.sbSize then .ok (s.byteIn .sb s.sb a.toNat) else .error (.fault .absentAddress)

/-- MemRead(CG:a, 1) (20_memory.md R50, R51). -/
def readCG (s : State) (a : BitVec 12) : Byte := s.byteIn .cg s.cg a.toNat

/-- MemRead(CA:a, 1) (20_memory.md R50, R53). -/
def readCA (s : State) (a : BitVec 10) : Byte := s.byteIn .ca s.ca a.toNat

/-- A host write to CG. -/
def State.writeCG (s : State) (a : BitVec 12) (b : Byte) : State := { s with cg := memWrite s.cg a.toNat b }

/-- A host write to SB. -/
def State.writeSB (s : State) (a : BitVec 10) (b : Byte) : State := { s with sb := memWrite s.sb a.toNat b }

/-- A host write to CA. -/
def State.writeCA (s : State) (a : BitVec 10) (b : Byte) : State := { s with ca := memWrite s.ca a.toNat b }

/-- MemWrite(FB:a, 1, rec) (20_memory.md R50): addresses are raster positions. -/
def State.writeFB (s : State) (a : Fin Config.npix) (r : PixelRecord) : State := { s with fb := memWrite s.fb a.val r }

/-- The record of an output cell as surface bytes, under the open packing FB_PACK (20_memory.md R54). -/
def State.surfaceBytes (s : State) (a : Nat) : List Byte := Config.fbPack (s.recordIn a)

/-! ### Registers -/

/-- Write the pending registers (10_state.md R22), and which of them have been written. -/
def State.setPending (s : State) (p : DisplayRegs) (pw : PendingWritten) : State := { s with p := p, pw := pw }

/-- START's copy of all five pending registers into the active ones at once (10_state.md R21). -/
def State.latchDisplay (s : State) : State := { s with x := s.p }

/-- Set the raster position and the two flags. -/
def State.setRaster (s : State) (pc : Fin Config.npix) (run : RunFlag) (done : Bool) : State :=
  { s with pc := pc, run := run, done := done }

/-- Set the pixel in progress. -/
def State.setPix (s : State) (pix : PixelLatch) : State := { s with pix := pix }

/-- Drive the read port (44_frame_control.md R165). -/
def State.setRd (s : State) (v : BitVec 4) : State := { s with rd := v }

/-- Hand a record to the host. -/
def State.setGot (s : State) (r : PixelRecord) : State := { s with got := some r }

/-- Set the moves still to come. -/
def State.setTurns (s : State) (ts : List Turn) : State := { s with turns := ts }

/-- All five pending registers have been written since reset. -/
def PendingWritten.all (w : PendingWritten) : Bool := w.border && w.bg0 && w.bg1 && w.bg2 && w.mode

/-- The host has done what 70_reset_and_hazards.md R222 asks before the first START: CG[0..2047], SB[0..999],
CA[0..999] and the five pending registers are written. A premise of claims about frames (60_exceptions.md R202),
which no instruction asks for (R227: there is no hardware interlock). -/
def State.initialised (s : State) : Bool :=
  s.pw.all && covers s.cg Config.cgUsed && covers s.sb Config.sbSize && covers s.ca Config.sbSize

/-- The reset action (70_reset_and_hazards.md R220): every piece of state as after reset, what registers, memories and
surface hold being free anew; the configuration and the host's own moves still to come are not the block's and stay
(log 18). -/
def State.resetBlock (s : State) : State :=
  { State.afterReset (s.resets + 1) with turns := s.turns, platform := s.platform }

end Sys2Proof.Machine
end

