-- ==== Sys2Proof/Machine/Flags.lean ====
section
/-! DEFINITION. The two flags RUN and DONE (10_state.md R26), the STATUS word, and the end of a raster step. -/

namespace Sys2Proof.Machine

/-- RUN as a bit: 1 for BUSY, 0 for IDLE (10_state.md R26). -/
def runBit : RunFlag → BitVec 1
  | .idle => 0#1
  | .busy => 1#1

/-- The STATUS slot: `{0b00, DONE, RUN}` (10_state.md R29). -/
def State.statusWord (s : State) : BitVec 4 := 0#2 ++ BitVec.ofBool s.done ++ runBit s.run

/-- The output level frame_done, equal to DONE (60_exceptions.md R193). -/
def State.frameDone (s : State) : Bool := s.done

/-- An accepted START (44_frame_control.md R171): the active registers take the pending ones, pc 0, DONE 0,
RUN BUSY; no pixel is in progress. -/
def State.beginFrame (s : State) : State :=
  (s.latchDisplay.setRaster ⟨0, by decide⟩ .busy false).setPix PixelLatch.empty

/-- The end of a raster step (44_frame_control.md R175, R176): pc advances, except after the last pixel of
the frame, where pc becomes 0, RUN IDLE and DONE 1. No pixel is in progress afterwards (10_state.md R33). -/
def State.endPixel (s : State) : State :=
  if h : s.pc.val + 1 < Config.npix then (s.setRaster ⟨s.pc.val + 1, h⟩ s.run s.done).setPix PixelLatch.empty
  else (s.setRaster ⟨0, by decide⟩ .idle true).setPix PixelLatch.empty

end Sys2Proof.Machine
end

