-- ==== Sys2Proof/Machine/Operands.lean ====
section
/-! DEFINITION. How each operand of a pixel operation is assembled (30_encoding.md R89), the unpackers, and the selector word. -/

namespace Sys2Proof.Machine

/-- Output column X = pc mod 384 (10_state.md R25). -/
def coordX (pc : Fin Config.npix) : Nat := pc.val % Config.outW

/-- Output line Y = pc div 384 (10_state.md R25). -/
def coordY (pc : Fin Config.npix) : Nat := pc.val / Config.outW

/-- lx = x - 32, an integer (40_border_detect.md R110). -/
def logicalX (x : Nat) : Int := (x : Int) - (Config.borderL : Int)

/-- ly = y - 36, an integer (40_border_detect.md R110). -/
def logicalY (y : Nat) : Int := (y : Int) - (Config.borderT : Int)

/-- The logical coordinate lies in [0,320) x [0,200) (40_border_detect.md R111). -/
def insideVisible (lx ly : Int) : Bool :=
  decide (0 ≤ lx) && decide (lx < (Config.visW : Int)) && decide (0 ≤ ly) && decide (ly < (Config.visH : Int))

/-- inb (40_border_detect.md R111): 0 inside the visible area, else 1. -/
def borderBit (lx ly : Int) : BitVec 1 := if insideVisible lx ly then 0#1 else 1#1

/-- t = row x 40 + col (41_tile_fetch.md R121). -/
def tileIndex (row : BitVec 5) (col : BitVec 6) : BitVec 10 := BitVec.ofNat 10 (row.toNat * Config.cols + col.toNat)

/-- The tile split of a visible coordinate (41_tile_fetch.md R120): floor divisions and remainders by 8. -/
def tileSplit (lx ly : Int) : TileSplit :=
  let col := BitVec.ofNat 6 (lx.toNat / Config.tileEdge)
  let row := BitVec.ofNat 5 (ly.toNat / Config.tileEdge)
  { col := col
    row := row
    wc := BitVec.ofNat 3 (lx.toNat % Config.tileEdge)
    wr := BitVec.ofNat 3 (ly.toNat % Config.tileEdge)
    index := tileIndex row col }

/-- The CG address g x 8 + wr (41_tile_fetch.md R123). -/
def glyphAddr (g : Byte) (wr : BitVec 3) : BitVec 12 := BitVec.ofNat 12 (g.toNat * Config.tileEdge + wr.toNat)

/-- The foreground colour of an attribute byte (30_encoding.md R84): bits 3:0; a byte with any of bits 7:4
set is refused under ATTR_HI_POLICY = refuse. -/
def attrForeground (policy : Config.AttrHiPolicy) (a : Byte) : Except Stop Color :=
  match policy with
  | .mask => .ok (a.extractLsb' 0 4)
  | .refuse => if a.extractLsb' 4 4 = 0#4 then .ok (a.extractLsb' 0 4) else .error (.refusal .attributeHighBits)

/-- UNPACK.H (42_unpack.md R135): v = {0, (B >> (7 - wc)) & 1}. -/
def unpackHires (row : Byte) (wc : BitVec 3) : BitVec 2 := ((row >>> (7 - wc.toNat)) &&& 1#8).setWidth 2

/-- UNPACK.M (42_unpack.md R136): k = wc div 2, v = (B >> (6 - 2k)) & 3. -/
def unpackMulti (row : Byte) (wc : BitVec 3) : BitVec 2 := ((row >>> (6 - 2 * (wc.toNat / 2))) &&& 3#8).setWidth 2

/-- RowH(B), the whole row of hires bits indexed by wc (42_unpack.md R139). -/
def rowHires (row : Byte) : List (BitVec 1) :=
  [row.extractLsb' 7 1, row.extractLsb' 6 1, row.extractLsb' 5 1, row.extractLsb' 4 1,
   row.extractLsb' 3 1, row.extractLsb' 2 1, row.extractLsb' 1 1, row.extractLsb' 0 1]

/-- RowM(B), the whole row of multicolor pairs indexed by wc (42_unpack.md R139). -/
def rowMulti (row : Byte) : List (BitVec 2) :=
  [row.extractLsb' 6 2, row.extractLsb' 6 2, row.extractLsb' 4 2, row.extractLsb' 4 2,
   row.extractLsb' 2 2, row.extractLsb' 2 2, row.extractLsb' 0 2, row.extractLsb' 0 2]

/-- SEL = {inb, m, v[1:0]}, with v = 0b00 for a border pixel (30_encoding.md R88). -/
def selectorWord (inb m : BitVec 1) (v : BitVec 2) : BitVec 4 := inb ++ m ++ (if inb = 1#1 then 0#2 else v)

/-- The STAGE word {inb, m} of the pixel in progress (30_encoding.md R90). -/
def State.stageWord (s : State) : BitVec 2 := s.pix.inb ++ s.x.mode

/-- The SEL word of the pixel in progress. -/
def State.selWord (s : State) : BitVec 4 := selectorWord s.pix.inb s.x.mode s.pix.v

/-- The condition of a stage holds: the STAGE word matches the row's pattern (30_encoding.md R90). -/
def State.stageMatches (s : State) (bits mask : BitVec 2) : Bool := (s.stageWord &&& mask) == bits

/-- A pixel class is selected: the SEL word matches the row's pattern (30_encoding.md R88). -/
def State.selMatches (s : State) (bits mask : BitVec 4) : Bool := (s.selWord &&& mask) == bits

end Sys2Proof.Machine
end

