-- ==== Sys2Proof/Machine/Border.lean ====
section
/-! DEFINITION. The border detector: LCOORD and BORDER (40_border_detect.md). Both run under every STAGE word. -/

namespace Sys2Proof.Machine

/-- LCOORD (R110): lx = x - 32, ly = y - 36, of the output coordinate of pc. -/
def execLcoord (s : State) : Answer :=
  .next (s.setPix { s.pix with lx := logicalX (coordX s.pc), ly := logicalY (coordY s.pc) })

/-- BORDER (R111): inb. -/
def execBorder (s : State) : Answer :=
  .next (s.setPix { s.pix with inb := borderBit s.pix.lx s.pix.ly })

end Sys2Proof.Machine
end

