-- ==== Sys2Proof/Machine/Command.lean ====
section
/-! DEFINITION. The host commands: WR.BORDER, WR.BG0, WR.BG1, WR.BG2, WR.MODE, START, CTRL.NOP, WR.RSVD, RD (44_frame_control.md). -/

namespace Sys2Proof.Machine

/-- WR.BORDER c (R166): p[0] <- c, in either run state. -/
def execWrBorder (c : Color) (s : State) : Answer :=
  .next (s.setPending { s.p with border := c } { s.pw with border := true })

/-- WR.BG0 c (R167): p[1] <- c. -/
def execWrBg0 (c : Color) (s : State) : Answer :=
  .next (s.setPending { s.p with bg0 := c } { s.pw with bg0 := true })

/-- WR.BG1 c (R168): p[2] <- c. -/
def execWrBg1 (c : Color) (s : State) : Answer :=
  .next (s.setPending { s.p with bg1 := c } { s.pw with bg1 := true })

/-- WR.BG2 c (R169): p[3] <- c. -/
def execWrBg2 (c : Color) (s : State) : Answer :=
  .next (s.setPending { s.p with bg2 := c } { s.pw with bg2 := true })

/-- WR.MODE m (R170): p[4] <- d[0]; d[3:1] are ignored. -/
def execWrMode (m : BitVec 1) (s : State) : Answer :=
  .next (s.setPending { s.p with mode := m } { s.pw with mode := true })

/-- START (R171, R178): accepted only when RUN = IDLE, no effect when BUSY. No interlock asks whether the host has
written what 70_reset_and_hazards.md R222 names (R227; logs 3 and 22). -/
def execStart (s : State) : Answer :=
  match s.run with
  | .busy => .next s
  | .idle => .next s.beginFrame

/-- CTRL.NOP (R172): no state changes. -/
def execCtrlNop (s : State) : Answer := .next s

/-- WR.RSVD (R173): no state changes. -/
def execWrRsvd (s : State) : Answer := .next s

/-- The value RD returns (R174): the pending copy, 0, or STATUS. -/
def readSlot (s : State) (a : BitVec 3) : BitVec 4 :=
  if a = 0#3 then s.p.border
  else if a = 1#3 then s.p.bg0
  else if a = 2#3 then s.p.bg1
  else if a = 3#3 then s.p.bg2
  else if a = 4#3 then 0#3 ++ s.p.mode
  else if a = 6#3 then s.statusWord
  else 0#4

/-- RD a (R174): the read port takes the slot's value and no state of the block changes. -/
def execRd (a : BitVec 3) (s : State) : Answer := .next (s.setRd (readSlot s a))

end Sys2Proof.Machine
end

