-- ==== Sys2Proof/Machine/ColorSelect.lean ====
section
/-! DEFINITION. Colour-source selection, the palette stage and the pixel function (43_color_select.md). -/

namespace Sys2Proof.Machine

/-- A pixel class: where the SEL word matches its pattern, idx takes its colour source; else it is not
selected and nothing happens (R150, log 11). -/
def classOp (bits mask : BitVec 4) (source : Color) (s : State) : Answer :=
  if s.selMatches bits mask then .next (s.setPix { s.pix with idx := source }) else .next s

/-- PX.BORDER (R151), SEL `1---`: idx = x[0]. -/
def execPxBorder (s : State) : Answer := classOp 0x8#4 0x8#4 s.x.border s

/-- PX.HBG (R152), SEL `0000`: idx = x[1]. -/
def execPxHbg (s : State) : Answer := classOp 0x0#4 0xF#4 s.x.bg0 s

/-- PX.HFG (R153), SEL `0001`: idx = fg. -/
def execPxHfg (s : State) : Answer := classOp 0x1#4 0xF#4 s.pix.fg s

/-- PX.MBG0 (R154), SEL `0100`: idx = x[1]. -/
def execPxMbg0 (s : State) : Answer := classOp 0x4#4 0xF#4 s.x.bg0 s

/-- PX.MBG1 (R155), SEL `0101`: idx = x[2]. -/
def execPxMbg1 (s : State) : Answer := classOp 0x5#4 0xF#4 s.x.bg1 s

/-- PX.MBG2 (R156), SEL `0110`: idx = x[3]. -/
def execPxMbg2 (s : State) : Answer := classOp 0x6#4 0xF#4 s.x.bg2 s

/-- PX.MFG (R157), SEL `0111`: idx = fg, all four bits of it. -/
def execPxMfg (s : State) : Answer := classOp 0x7#4 0xF#4 s.pix.fg s

/-- The record of a colour index (R158): PALETTE(idx), fully opaque. -/
def recordOf (idx : Color) : PixelRecord :=
  let c := Config.palette idx
  { idx := idx, r := c.r, g := c.g, b := c.b, a := 0xFF#8 }

/-- PAL (R158), under every STAGE word: the record of idx is written to cell y x 384 + x = pc. -/
def execPal (s : State) : Answer := .next (s.writeFB s.pc (recordOf s.pix.idx))

/-- The colour source of a multicolor pair value (R154 to R157): [x[1], x[2], x[3], fg][v]. -/
def multiSource (x : DisplayRegs) (fg : Color) (v : BitVec 2) : Color :=
  if v = 0#2 then x.bg0 else if v = 1#2 then x.bg1 else if v = 2#2 then x.bg2 else fg

/-- The colour source of a hires bit (R152, R153). -/
def hiresSource (x : DisplayRegs) (fg : Color) (v : BitVec 2) : Color := if v = 1#2 then fg else x.bg0

/-- PixelIndex(x, y, S) (R159), the normative core: it stops only on an attribute byte the platform refuses. -/
def pixelIndex (s : State) (x y : Nat) : Except Stop Color :=
  let lx := logicalX x
  let ly := logicalY y
  if insideVisible lx ly then do
    let t := tileSplit lx ly
    let g ← readSB s t.index
    let b := readCG s (glyphAddr g t.wr)
    let fg ← attrForeground s.platform.attrHi (readCA s t.index)
    .ok (if s.x.mode = 0#1 then hiresSource s.x fg (unpackHires b t.wc) else multiSource s.x fg (unpackMulti b t.wc))
  else .ok s.x.border

/-- Pixel(x, y, S) (R159). -/
def pixelRecord (s : State) (x y : Nat) : Except Stop PixelRecord := (pixelIndex s x y).map recordOf

/-- The raster position's pixel written to its cell: what a raster step does to FB (44_frame_control.md R175),
at any position, so that frames in any order can be spoken of (R177). -/
def drawAt (s : State) (pos : Fin Config.npix) : Except Stop State :=
  (pixelRecord s (coordX pos) (coordY pos)).map (s.writeFB pos)

end Sys2Proof.Machine
end

