-- ==== Sys2Proof/Machine/Raster.lean ====
section
/-! DEFINITION. The raster step STEP (44_frame_control.md R175, R176). -/

namespace Sys2Proof.Machine

/-- STEP (R175): enabled exactly when RUN = BUSY; the pixel at pc is written to FB[pc] and pc advances, or
the frame ends. When IDLE it is not enabled and nothing happens (log 10). -/
def execStep (s : State) : Answer :=
  match s.run with
  | .idle => .next s
  | .busy => withValue (drawAt s s.pc) fun t => .next t.endPixel

end Sys2Proof.Machine
end

