-- ==== Sys2Proof/Machine/Tile.lean ====
section
/-! DEFINITION. Tile addressing and the three fetches: TILE, SCODE, GROW, ATTR (41_tile_fetch.md). They run under STAGE `0-`; under
another word they do nothing (R126, log 11). -/

namespace Sys2Proof.Machine

/-- TILE (R120, R121). A coordinate outside the visible area has no tile (R126). -/
def execTile (s : State) : Answer :=
  if s.stageMatches 0b00#2 0b10#2 then
    (if insideVisible s.pix.lx s.pix.ly then .next (s.setPix { s.pix with tile := tileSplit s.pix.lx s.pix.ly })
     else .fault .tileOutside)
  else .next s

/-- SCODE (R122): g = MemRead(SB:t, 1). -/
def execScode (s : State) : Answer :=
  if s.stageMatches 0b00#2 0b10#2 then
    withValue (readSB s s.pix.tile.index) fun g => .next (s.setPix { s.pix with g := g })
  else .next s

/-- GROW (R123): B = MemRead(CG: g x 8 + wr, 1). -/
def execGrow (s : State) : Answer :=
  if s.stageMatches 0b00#2 0b10#2 then
    .next (s.setPix { s.pix with b := readCG s (glyphAddr s.pix.g s.pix.tile.wr) })
  else .next s

/-- ATTR (R124): A = MemRead(CA:t, 1), fg = A[3:0]. -/
def execAttr (s : State) : Answer :=
  if s.stageMatches 0b00#2 0b10#2 then
    withValue (attrForeground s.platform.attrHi (readCA s s.pix.tile.index)) fun fg =>
      .next (s.setPix { s.pix with a := readCA s s.pix.tile.index, fg := fg })
  else .next s

end Sys2Proof.Machine
end

