-- ==== Sys2Proof/Machine/Unpack.lean ====
section
/-! DEFINITION. The glyph-row unpacker: UNPACK.H and UNPACK.M (42_unpack.md). Exactly one of them runs for a visible pixel, chosen by
x[4], and neither for a border pixel. -/

namespace Sys2Proof.Machine

/-- UNPACK.H (R135), under STAGE `00`. -/
def execUnpackH (s : State) : Answer :=
  if s.stageMatches 0b00#2 0b11#2 then
    .next (s.setPix { s.pix with v := unpackHires s.pix.b s.pix.tile.wc })
  else .next s

/-- UNPACK.M (R136), under STAGE `01`. -/
def execUnpackM (s : State) : Answer :=
  if s.stageMatches 0b01#2 0b11#2 then
    .next (s.setPix { s.pix with v := unpackMulti s.pix.b s.pix.tile.wc })
  else .next s

end Sys2Proof.Machine
end

