-- ==== Sys2Proof/Machine/Dispatch.lean ====
section
/-! DEFINITION. exec: one arm per instruction. -/

namespace Sys2Proof.Machine

def exec (i : Instr) (s : State) : Host.Outcome State Fault Refusal :=
  match i with
  | .lcoord => Sys2Proof.Machine.execLcoord s
  | .border => Sys2Proof.Machine.execBorder s
  | .tile => Sys2Proof.Machine.execTile s
  | .scode => Sys2Proof.Machine.execScode s
  | .grow => Sys2Proof.Machine.execGrow s
  | .attr => Sys2Proof.Machine.execAttr s
  | .unpackH => Sys2Proof.Machine.execUnpackH s
  | .unpackM => Sys2Proof.Machine.execUnpackM s
  | .pal => Sys2Proof.Machine.execPal s
  | .pxBorder => Sys2Proof.Machine.execPxBorder s
  | .pxHbg => Sys2Proof.Machine.execPxHbg s
  | .pxHfg => Sys2Proof.Machine.execPxHfg s
  | .pxMbg0 => Sys2Proof.Machine.execPxMbg0 s
  | .pxMbg1 => Sys2Proof.Machine.execPxMbg1 s
  | .pxMbg2 => Sys2Proof.Machine.execPxMbg2 s
  | .pxMfg => Sys2Proof.Machine.execPxMfg s
  | .wrBorder c => Sys2Proof.Machine.execWrBorder c s
  | .wrBg0 c => Sys2Proof.Machine.execWrBg0 c s
  | .wrBg1 c => Sys2Proof.Machine.execWrBg1 c s
  | .wrBg2 c => Sys2Proof.Machine.execWrBg2 c s
  | .wrMode _ m => Sys2Proof.Machine.execWrMode m s
  | .start _ => Sys2Proof.Machine.execStart s
  | .ctrlNop _ => Sys2Proof.Machine.execCtrlNop s
  | .wrRsvd _ _ => Sys2Proof.Machine.execWrRsvd s
  | .rd a _ => Sys2Proof.Machine.execRd a s
  | .step => Sys2Proof.Machine.execStep s

end Sys2Proof.Machine
end

