-- ==== Sys2Proof/Machine/HostPort.lean ====
section
/-! DEFINITION. The host's own accesses (30_encoding.md R93, 60_exceptions.md R202): SET, GET, reset, and what it must not do. -/

namespace Sys2Proof.Machine

/-- A host access to CG, SB, CA or FB is allowed only while RUN = IDLE (20_memory.md R65). -/
def whenIdle (s : State) (k : Answer) : Answer :=
  match s.run with
  | .idle => k
  | .busy => .refused .hostAccessDuringFrame

/-- One access of the host. A GET of a cell nothing has written since reset gives a free value
(93_implementation_defined.md U1); a change of the regions out of reset is refused (U9); reset may come at
any time (70_reset_and_hazards.md R220). -/
def hostAccess (m : HostAccess) (s : State) : Answer :=
  match m with
  | .setCG a b => whenIdle s (.next (s.writeCG a b))
  | .setSB a b => whenIdle s (if a.toNat < Config.sbSize then .next (s.writeSB a b) else .fault .absentAddress)
  | .setCA a b => whenIdle s (.next (s.writeCA a b))
  | .getFB a =>
    whenIdle s (if a.toNat < Config.npix then .next (s.setGot (s.recordIn a.toNat)) else .fault .absentAddress)
  | .reset => .next s.resetBlock
  | .resize _ _ _ => .refused .resizedOutOfReset

end Sys2Proof.Machine
end

