-- ==== Sys2Proof/Machine/Sequencer.lean ====
section
/-! DEFINITION. The pixel pipeline one stage at a time: which word the next stage is decoded from, and what follows it
(30_encoding.md R90; the finer grain of 92_eei_decisions.md D1, log 9). -/

namespace Sys2Proof.Machine

/-- The order of the pipeline positions (30_encoding.md R90). -/
def nextSlot : Slot → Slot
  | .lcoord => .border
  | .border => .tile
  | .tile => .scode
  | .scode => .grow
  | .grow => .attr
  | .attr => .unpack
  | .unpack => .select
  | .select => .pal
  | .pal => .lcoord

/-- How many stages of the pixel in progress are behind it. -/
def slotNumber : Slot → Nat
  | .lcoord => 0
  | .border => 1
  | .tile => 2
  | .scode => 3
  | .grow => 4
  | .attr => 5
  | .unpack => 6
  | .select => 7
  | .pal => 8

/-- The encoded operation at the next position: SEL for the colour-source selection, STAGE elsewhere. -/
def State.stageCode (s : State) : Code :=
  match s.pix.slot with
  | .select => .sel s.selWord
  | slot => .stage slot s.stageWord

/-- After a stage the next position follows; after PAL the raster step ends (44_frame_control.md R175). -/
def State.afterStage (s : State) : State :=
  match s.pix.slot with
  | .pal => s.endPixel
  | slot => s.setPix { s.pix with slot := nextSlot slot }

/-- One stage of the pixel in progress, `run` being the meaning of an instruction: a stage whose condition
fails does not run, a reserved selector is refused (30_encoding.md R91). When IDLE no stage is enabled. -/
def stageTurn (run : Instr → State → Answer) (s : State) : Answer :=
  match s.run with
  | .idle => .next s
  | .busy =>
    match decode s.stageCode with
    | .ok i => mapNext (run i s) State.afterStage
    | .error .reservedSelector => .refused .reservedSelector
    | .error .stageSkipped => .next s.afterStage
    | .error .notAStage => .next s.afterStage

end Sys2Proof.Machine
end

