-- ==== Sys2Proof/Machine/Step.lean ====
section
/-! DEFINITION. One step of the machine: the move at the head of State.turns, or the rasterizer's where none is pending. -/

namespace Sys2Proof.Machine

/-- One step (44_frame_control.md R165, log 1). A platform whose regions are too small is refused before
anything else (20_memory.md R66). With no move pending the rasterizer steps, which does nothing while IDLE. -/
def step (s : State) : Host.Outcome State Fault Refusal :=
  if s.platform.wellFormed then
    (match s.turns with
     | [] => exec .step s
     | .raster :: rest => exec .step (s.setTurns rest)
     | .stage :: rest => stageTurn exec (s.setTurns rest)
     | .command w :: rest => exec (decodeHc w) (s.setTurns rest)
     | .access m :: rest => hostAccess m (s.setTurns rest))
  else .refused .illFormedConfiguration

/-- s with an opcode-table word placed where the next step takes its operation from (logs 1 and 15): an HC
word as the host's next command; a SEL or STAGE word by setting the values it is assembled from and the
pipeline position, the rasterizer running; the raster step as the next move, the rasterizer running. -/
def State.withFetchWord (s : State) (nbits w : Nat) : State :=
  match codeOfTableWord nbits w with
  | some (.hc c) => s.setTurns (.command c :: s.turns)
  | some (.sel c) =>
    { s with
      run := .busy
      x := { s.x with mode := c.extractLsb' 2 1 }
      pix := { s.pix with slot := .select, inb := c.extractLsb' 3 1, v := c.extractLsb' 0 2 }
      turns := .stage :: s.turns }
  | some (.stage slot c) =>
    { s with
      run := .busy
      x := { s.x with mode := c.extractLsb' 0 1 }
      pix := { s.pix with slot := slot, inb := c.extractLsb' 1 1 }
      turns := .stage :: s.turns }
  | some .raster => { s with run := .busy, turns := .raster :: s.turns }
  | none => s

end Sys2Proof.Machine
end

