-- ==== Sys2Proof/Safety.lean ====
section
/-! DEFINITION. What counts as a state of a safe run: the invariant of the machine, the pixel in progress agreeing with the pixel
function, and the states whose attribute bytes a frame can be drawn from. -/

namespace Sys2Proof.Safety

open Sys2Proof.Machine

/-- The values the stages so far have given agree with the rules they follow (30_encoding.md R89, R90):
nothing is asked of a value whose stage has not run, nor of the tile values of a border pixel. -/
structure PixelAgrees (s : State) : Prop where
  logical : 1 ≤ slotNumber s.pix.slot →
    s.pix.lx = logicalX (coordX s.pc) ∧ s.pix.ly = logicalY (coordY s.pc)
  border : 2 ≤ slotNumber s.pix.slot → s.pix.inb = borderBit s.pix.lx s.pix.ly
  tile : 3 ≤ slotNumber s.pix.slot → s.pix.inb = 0#1 → s.pix.tile = tileSplit s.pix.lx s.pix.ly
  glyph : 4 ≤ slotNumber s.pix.slot → s.pix.inb = 0#1 → readSB s s.pix.tile.index = .ok s.pix.g
  row : 5 ≤ slotNumber s.pix.slot → s.pix.inb = 0#1 →
    readCG s (glyphAddr s.pix.g s.pix.tile.wr) = s.pix.b
  colour : 6 ≤ slotNumber s.pix.slot → s.pix.inb = 0#1 →
    readCA s s.pix.tile.index = s.pix.a ∧ attrForeground s.platform.attrHi s.pix.a = .ok s.pix.fg
  value : 7 ≤ slotNumber s.pix.slot → s.pix.inb = 0#1 →
    s.pix.v = if s.x.mode = 0#1 then unpackHires s.pix.b s.pix.tile.wc else unpackMulti s.pix.b s.pix.tile.wc
  index : 8 ≤ slotNumber s.pix.slot → pixelIndex s (coordX s.pc) (coordY s.pc) = .ok s.pix.idx

/-- The invariant of the machine: the four spaces are in canonical form; while IDLE, pc is 0 (10_state.md R25)
and no pixel is in progress; BUSY and DONE never stand together (R29); a pixel in progress agrees. -/
structure Inv (s : State) : Prop where
  mem : s.memWf
  idlePc : s.run = .idle → s.pc.val = 0
  idlePix : s.run = .idle → s.pix = PixelLatch.empty
  busyNotDone : s.run = .busy → s.done = false
  pixel : PixelAgrees s

/-- No attribute byte of a visible tile is one the platform's ATTR_HI_POLICY refuses (93_implementation_defined.md U4). -/
def AttributesLegal (s : State) : Prop :=
  s.platform.attrHi = .mask ∨ ∀ a < Config.sbSize, (s.byteIn .ca s.ca a).extractLsb' 4 4 = 0#4

/-- The next move is the rasterizer's and ends its pixel: a raster step, or the last stage of one. -/
def RasterizerEndsPixel (s : State) : Prop :=
  s.turns = [] ∨ (∃ rest, s.turns = .raster :: rest) ∨ ∃ rest, s.turns = .stage :: rest ∧ s.pix.slot = .pal

/-- The pixel's logical coordinate is in the visible area, as a fact about the output coordinate
(40_border_detect.md R111). -/
def VisibleXY (x y : Nat) : Prop := 32 ≤ x ∧ x ≤ 351 ∧ 36 ≤ y ∧ y ≤ 235

/-- The pixels at the listed raster positions drawn one after another (44_frame_control.md R177). -/
def drawAll (positions : List (Fin Config.npix)) (s : State) : Except Stop State :=
  positions.foldlM drawAt s

end Sys2Proof.Safety
end

