-- ==== Sys2Proof/Certificates/Slice0/Obligations.lean ====
section
/-! DEFINITION. The statements for the provers, each with the rule of spec/ it formalises. -/

open Sys2Proof Sys2Proof.Machine Sys2Proof.Safety

/-! ### Encoding -/

/-- 30_encoding.md R87, R88, R90: the encoding of every instruction the table has an encoding of decodes to
it, every operand at every value. -/
def Obligations.DecodeInvertsEncode : Prop :=
  ∀ i : Instr, i.wellFormed = true → decode (encode i) = .ok i

/-- 30_encoding.md R87: every one of the 256 host words matches exactly one row, its instruction's row, and is
the encoding of that instruction, ignored bits included. -/
def Obligations.HostWordsDecodeOneWay : Prop :=
  ∀ w : BitVec 8, (decodeHc w).wellFormed = true ∧ encode (decodeHc w) = .hc w ∧
    hcRows.filter (fun r => r.accepts w.toNat) = [(decodeHc w).tableRow]

/-- Words written out from the patterns of 30_encoding.md R87 and R88 and their instructions. -/
def Obligations.WrittenOutWordsDecode : Prop :=
  decodeHc 0b10001110#8 = .wrBorder 14 ∧ decodeHc 0b10010110#8 = .wrBg0 6 ∧ decodeHc 0b11001111#8 = .wrMode 7 1 ∧
  decodeHc 0b11010001#8 = .start 0 ∧ decodeHc 0b11011110#8 = .ctrlNop 7 ∧ decodeHc 0b01001010#8 = .rd 4 10 ∧
  decodeSel 0b1011#4 = .ok .pxBorder ∧ decodeSel 0b0110#4 = .ok .pxMbg2 ∧
  decodeStage .unpack 0b01#2 = .ok .unpackM ∧ decodeStage .tile 0b10#2 = .error .stageSkipped

/-- 43_color_select.md R150, 30_encoding.md R88, R91: a selector word assembled from a border pixel, from a
multicolor value, or from a hires value (whose high bit is 0) matches exactly one class, the decoded one; the two
reserved words are rejected. -/
def Obligations.AssembledSelectorHasOneClass : Prop :=
  (∀ (inb m : BitVec 1) (v : BitVec 2), (inb = 1#1 ∨ m = 1#1 ∨ v.getLsbD 1 = false) →
    ∃ i, decodeSel (selectorWord inb m v) = .ok i ∧
      [Instr.pxBorder, .pxHbg, .pxHfg, .pxMbg0, .pxMbg1, .pxMbg2, .pxMfg].filter
        (fun j => j.tableRow.accepts (selectorWord inb m v).toNat) = [i]) ∧
  decodeSel 0b0010#4 = .error .reservedSelector ∧ decodeSel 0b0011#4 = .error .reservedSelector

/-! ### The step -/

/-- A step makes the move at the head of the moves: it runs the decoded instruction of the host's next word, of the next
stage of the pixel in progress (and then what follows the stage), or the raster step; a stage whose condition fails is
passed over; a reserved selector word is refused (30_encoding.md R91); a host access is made (60_exceptions.md R202); a
host word placed by withFetchWord is run. (The moves held in the state are log 1, the stage turns log 9.) -/
def Obligations.StepRunsDecodedInstruction : Prop :=
  ∀ s : State, s.platform.wellFormed = true →
    (∀ w rest, s.turns = .command w :: rest → step s = exec (decodeHc w) { s with turns := rest }) ∧
    (∀ rest, s.turns = .raster :: rest → step s = exec .step { s with turns := rest }) ∧
    (s.turns = [] → step s = exec .step s) ∧
    (∀ m rest, s.turns = .access m :: rest → step s = hostAccess m { s with turns := rest }) ∧
    (∀ rest i, s.turns = .stage :: rest → s.run = .busy → decode s.stageCode = .ok i →
      step s = mapNext (exec i { s with turns := rest }) State.afterStage) ∧
    (∀ rest, s.turns = .stage :: rest → s.run = .busy → decode s.stageCode = .error .stageSkipped →
      step s = .next { s with turns := rest }.afterStage) ∧
    (∀ rest, s.turns = .stage :: rest → s.run = .busy → decode s.stageCode = .error .reservedSelector →
      step s = .refused .reservedSelector) ∧
    (∀ w, w < 256 → step (s.withFetchWord 8 w) = exec (decodeHc (BitVec.ofNat 8 w)) s)

/-- 20_memory.md R66, 60_exceptions.md R192: a platform whose regions are smaller than required is refused
before any step; a change of the regions out of reset is refused; no step changes the platform. -/
def Obligations.PlatformIsFixedAndChecked : Prop :=
  (∀ s : State, (s.platform.cgBytes < 4096 ∨ s.platform.sbBytes < 1000 ∨ s.platform.caBytes < 1024) →
    step s = .refused .illFormedConfiguration) ∧
  (∀ (s : State) (rest : List Turn) (a b c : Nat), s.platform.wellFormed = true →
    s.turns = .access (.resize a b c) :: rest → step s = .refused .resizedOutOfReset) ∧
  (∀ s t : State, step s = .next t → t.platform = s.platform)

/-- 60_exceptions.md R201, 70_reset_and_hazards.md R220: while IDLE, with no move of the host pending, the block
does nothing and keeps all its state; a raster step is not enabled (44_frame_control.md R175). That a raster or stage
turn given to an IDLE block is consumed and changes nothing else is the model's reading (log 10). -/
def Obligations.IdleBlockKeepsItsState : Prop :=
  ∀ s : State, s.run = .idle →
    exec .step s = .next s ∧ (s.platform.wellFormed = true → s.turns = [] → step s = .next s) ∧
    ∀ rest, s.platform.wellFormed = true → s.turns = .raster :: rest ∨ s.turns = .stage :: rest →
      step s = .next { s with turns := rest }

/-! ### Reset and the invariant -/

/-- 10_state.md R35, 70_reset_and_hazards.md R220: after reset RUN is IDLE, DONE 0, pc 0, STATUS reads 0, and no
register, no byte of CG, SB, CA and no cell of FB counts as written; the same of the reset action from every state,
which leaves the configuration and the host's own moves (log 18) and makes what the memories hold free anew (log 4).
The registers then hold free values of that reset, of which nothing can be proved. (That choice is log 2; the record of
written registers is log 3.) -/
def Obligations.ResetLeavesBlockIdle : Prop :=
  (State.reset.run = .idle ∧ State.reset.done = false ∧ State.reset.pc.val = 0 ∧ State.reset.statusWord = 0#4 ∧
    State.reset.pw = ⟨false, false, false, false, false⟩ ∧
    State.reset.x = DisplayRegs.atReset State.reset.resets .active ∧
    State.reset.p = DisplayRegs.atReset State.reset.resets .pending ∧
    ∀ a, memRead State.reset.cg a = none ∧ memRead State.reset.sb a = none ∧ memRead State.reset.ca a = none ∧
      memRead State.reset.fb a = none) ∧
  ∀ s : State, ∃ t, hostAccess .reset s = .next t ∧ t.run = .idle ∧ t.done = false ∧ t.pc.val = 0 ∧
    t.statusWord = 0#4 ∧ t.pw = ⟨false, false, false, false, false⟩ ∧ t.resets = s.resets + 1 ∧
    t.x = DisplayRegs.atReset t.resets .active ∧ t.p = DisplayRegs.atReset t.resets .pending ∧
    t.platform = s.platform ∧ t.turns = s.turns ∧
    ∀ a, memRead t.cg a = none ∧ memRead t.sb a = none ∧ memRead t.ca a = none ∧ memRead t.fb a = none

/-- The invariant holds at reset. (Its clauses on the pixel in progress speak of the model's own latch, log 8.) -/
def Obligations.ResetMeetsTheInvariant : Prop := Inv State.reset

/-- Every step keeps the invariant: canonical memories, pc 0 and no pixel in progress while IDLE (10_state.md
R25), never BUSY with DONE (R29), and a pixel in progress that agrees with the pixel function. (The pixel in progress is
the model's own, log 8, and so is the step of one stage, log 9.) -/
def Obligations.StepKeepsTheInvariant : Prop :=
  ∀ s t : State, Inv s → step s = .next t → Inv t

/-- 60_exceptions.md R190, 20_memory.md R59, 30_encoding.md R91: from a state of the invariant no step of either
agent faults, save a host access to an address that does not exist, and no reserved selector is ever assembled. -/
def Obligations.NoStepFaultsUnderInvariant : Prop :=
  ∀ s : State, Inv s →
    (∀ f, step s = .fault f → f = .absentAddress ∧ ∃ m rest, s.turns = .access m :: rest) ∧
    step s ≠ .refused .reservedSelector

/-- 44_frame_control.md R175, 20_memory.md R59, 41_tile_fetch.md R127: a raster step never faults, in any state: every
address it forms exists; and it is refused exactly where, while BUSY, the pixel of pc is visible and its tile's attribute
byte has any of bits 7:4 set under ATTR_HI_POLICY = refuse (93_implementation_defined.md U4). That this is so of every
visible pixel, also of one that shows no foreground, is the model's reading (log 5: R124 permits the fetch only where
the colour is needed). -/
def Obligations.RasterStepNeverFaults : Prop :=
  (∀ (s : State) (f : Fault), exec .step s ≠ .fault f) ∧
  (∀ (s : State) (r : Refusal), exec .step s = .refused r ↔
    r = .attributeHighBits ∧ s.platform.attrHi = .refuse ∧ s.run = .busy ∧ VisibleXY (s.pc.val % 384) (s.pc.val / 384) ∧
      (s.byteIn .ca s.ca ((s.pc.val / 384 - 36) / 8 * 40 + (s.pc.val % 384 - 32) / 8)).extractLsb' 4 4 ≠ 0#4)

/-- 10_state.md R26: RUN becomes BUSY only by a START, DONE becomes 1 only by the raster step (or its last stage)
at pc = 104447 while BUSY, RUN becomes IDLE only so or by reset, and DONE becomes 0 only by a START or by reset. -/
def Obligations.RunAndDoneChangeOnlySo : Prop :=
  ∀ s t : State, step s = .next t →
    (s.run = .idle → t.run = .busy → ∃ w rest ign, s.turns = .command w :: rest ∧ decodeHc w = .start ign) ∧
    (s.done = false → t.done = true → s.run = .busy ∧ s.pc.val = 104447 ∧ t.run = .idle ∧ RasterizerEndsPixel s) ∧
    (s.run = .busy → t.run = .idle →
      (s.pc.val = 104447 ∧ t.done = true ∧ RasterizerEndsPixel s) ∨ ∃ rest, s.turns = .access .reset :: rest) ∧
    (s.done = true → t.done = false →
      (∃ w rest ign, s.turns = .command w :: rest ∧ decodeHc w = .start ign ∧ s.run = .idle) ∨
      ∃ rest, s.turns = .access .reset :: rest)

/-! ### Host commands -/

/-- 44_frame_control.md R166 to R170, 30_encoding.md R87: the five WR words, and what each command does: it writes
its pending register and nothing else, in either run state; WR.MODE takes d[0] and ignores d[3:1]. (`pw` is the model's
record of what has been written since reset, log 3.) -/
def Obligations.WriteCommandsSetPendingRegisters : Prop :=
  ∀ (s : State) (c : Color) (ign : BitVec 3) (m : BitVec 1),
    (decodeHc (0b1000#4 ++ c) = .wrBorder c ∧ exec (.wrBorder c) s =
      .next { s with p := { s.p with border := c }, pw := { s.pw with border := true } }) ∧
    (decodeHc (0b1001#4 ++ c) = .wrBg0 c ∧ exec (.wrBg0 c) s =
      .next { s with p := { s.p with bg0 := c }, pw := { s.pw with bg0 := true } }) ∧
    (decodeHc (0b1010#4 ++ c) = .wrBg1 c ∧ exec (.wrBg1 c) s =
      .next { s with p := { s.p with bg1 := c }, pw := { s.pw with bg1 := true } }) ∧
    (decodeHc (0b1011#4 ++ c) = .wrBg2 c ∧ exec (.wrBg2 c) s =
      .next { s with p := { s.p with bg2 := c }, pw := { s.pw with bg2 := true } }) ∧
    (decodeHc (0b1100#4 ++ ign ++ m) = .wrMode ign m ∧ exec (.wrMode ign m) s =
      .next { s with p := { s.p with mode := m }, pw := { s.pw with mode := true } })

/-- 44_frame_control.md R171: a START while IDLE copies all five pending registers into the active ones at once, sets pc
to 0, DONE to 0 and RUN to BUSY, and changes nothing else of the spec's state. (That it is accepted whether or not the
host has done its boot duty is log 22, and that no pixel is in progress after it is log 20.) -/
def Obligations.StartLatchesAndBegins : Prop :=
  ∀ (s : State) (ign : BitVec 3), s.run = .idle →
    exec (.start ign) s =
      .next { s with x := s.p, pc := ⟨0, by decide⟩, run := .busy, done := false, pix := PixelLatch.empty }

/-- 70_reset_and_hazards.md R222: what `initialised` says: CG[0..2047], SB[0..999], CA[0..999] and all five
pending registers have been written since reset. -/
def Obligations.InitialisedMeansAllWritten : Prop :=
  ∀ s : State, s.initialised = true ↔
    s.pw = ⟨true, true, true, true, true⟩ ∧ (∀ a < 2048, ∃ b, memRead s.cg a = some b) ∧
    (∀ a < 1000, ∃ b, memRead s.sb a = some b) ∧ (∀ a < 1000, ∃ b, memRead s.ca a = some b)

/-- 44_frame_control.md R178. -/
def Obligations.StartWhileBusyHasNoEffect : Prop :=
  ∀ (s : State) (ign : BitVec 3), s.run = .busy → exec (.start ign) s = .next s

/-- 44_frame_control.md R172: CTRL.NOP changes no state in either run state, and no command stops, pauses or
aborts a frame. -/
def Obligations.NoCommandStopsAFrame : Prop :=
  (∀ (s : State) (ign : BitVec 3), decodeHc (0b1101#4 ++ ign ++ 0#1) = .ctrlNop ign ∧ exec (.ctrlNop ign) s = .next s) ∧
  (∀ (s t : State) (w : BitVec 8), s.run = .busy → exec (decodeHc w) s = .next t → t.run = .busy ∧ t.pc = s.pc)

/-- 44_frame_control.md R173, 10_state.md R30: a write to slot 6 or slot 7 changes no state, in either run state, and
slot 7 reads 0. (The read port as a field of the state is log 12.) -/
def Obligations.ReservedSlotsIgnoreWrites : Prop :=
  (∀ (s : State) (a : BitVec 3) (d : BitVec 4), a = 6#3 ∨ a = 7#3 →
    decodeHc (1#1 ++ a ++ d) = .wrRsvd a d ∧ exec (.wrRsvd a d) s = .next s) ∧
  (∀ (s : State) (ign : BitVec 4), exec (.rd 7 ign) s = .next { s with rd := 0#4 })

/-- 44_frame_control.md R174, 10_state.md R27: RD returns the slot's value on the read port and changes no state
of the block; the pending copy for slots 0 to 4, 0 for 5 and 7, STATUS for 6. (So it does for a pending register nothing
has written since reset: log 3. That the value stays in a field of the state is log 12.) -/
def Obligations.ReadReturnsTheSlot : Prop :=
  ∀ (s : State) (a : BitVec 3) (ign : BitVec 4),
    ∃ v, exec (.rd a ign) s = .next { s with rd := v } ∧
      (a = 0#3 → v = s.p.border) ∧ (a = 1#3 → v = s.p.bg0) ∧ (a = 2#3 → v = s.p.bg1) ∧ (a = 3#3 → v = s.p.bg2) ∧
      (a = 4#3 → v.toNat = s.p.mode.toNat) ∧ (a = 5#3 → v = 0#4) ∧ (a = 7#3 → v = 0#4) ∧
      (a = 6#3 → v.getLsbD 0 = decide (s.run = .busy) ∧ v.getLsbD 1 = s.done ∧ v.getLsbD 2 = false ∧ v.getLsbD 3 = false)

/-- 10_state.md R29. -/
def Obligations.StatusWordTellsRunAndDone : Prop :=
  ∀ s : State,
    (s.statusWord.getLsbD 0 = decide (s.run = .busy) ∧ s.statusWord.getLsbD 1 = s.done ∧
      s.statusWord.getLsbD 2 = false ∧ s.statusWord.getLsbD 3 = false) ∧
    (Inv s → s.statusWord = 0b0000#4 ∨ s.statusWord = 0b0001#4 ∨ s.statusWord = 0b0010#4) ∧
    (∀ d, exec (.wrRsvd 6 d) s = .next s)

/-- 44_frame_control.md R165: no command blocks, stalls or fails: every host word gives a next state in every state.
(That START and RD do so before the host has written anything is logs 3 and 22.) -/
def Obligations.EveryCommandCompletes : Prop :=
  ∀ (w : BitVec 8) (s : State), ∃ t, exec (decodeHc w) s = .next t

/-- 44_frame_control.md R179: a command given while BUSY does not change what the raster step then does to the
surface, the raster position, the flags and the active registers. -/
def Obligations.CommandsDuringFrameDoNotTearIt : Prop :=
  ∀ (w : BitVec 8) (s t u : State), s.run = .busy → exec (decodeHc w) s = .next t → exec .step s = .next u →
    ∃ v, exec .step t = .next v ∧ v.fb = u.fb ∧ v.pc = u.pc ∧ v.run = u.run ∧ v.done = u.done ∧ v.x = u.x

/-! ### Frames: what an instruction leaves unchanged -/

/-- 10_state.md R32, 20_memory.md R51 to R53: no instruction changes a byte of CG, SB or CA, written or not, the
configuration, what the host has read from FB, or the moves still to come. (The count of resets, which picks what unwritten
bytes read as, is log 4; the record of what the host has read, log 12; the moves, log 1; the configuration, log 25.) -/
def Obligations.NoInstructionWritesInputMemories : Prop :=
  ∀ (i : Instr) (s t : State), exec i s = .next t →
    t.cg = s.cg ∧ t.sb = s.sb ∧ t.ca = s.ca ∧ t.resets = s.resets ∧ t.platform = s.platform ∧
    t.got = s.got ∧ t.turns = s.turns

/-- 20_memory.md R54, 43_color_select.md R158, 44_frame_control.md R175: only PAL and STEP write the surface, and
only the cell at pc. -/
def Obligations.OnlyPalAndStepWriteTheSurface : Prop :=
  ∀ (i : Instr) (s t : State), exec i s = .next t →
    (i ≠ .pal → i ≠ .step → t.fb = s.fb) ∧ ∀ a, a ≠ s.pc.val → memRead t.fb a = memRead s.fb a

/-- 10_state.md R21, R22, R25, R26, 44_frame_control.md R181: the active registers change only by START; pc, RUN and
DONE only by START and STEP; each pending register only by its own WR command. The rest is of the model's own fields, of
which these rules say nothing: the record of which pending registers have been written goes with its register (log 3);
the read port keeps its value but for RD (log 12); the pixel in progress (log 8) is changed by no host command but START,
which drops it (log 20), and not by PAL. -/
def Obligations.RegistersChangeOnlyByTheirWriters : Prop :=
  ∀ (i : Instr) (s t : State), exec i s = .next t →
    ((∀ ign, i ≠ .start ign) → t.x = s.x) ∧
    ((∀ ign, i ≠ .start ign) → i ≠ .step → t.pc = s.pc ∧ t.run = s.run ∧ t.done = s.done) ∧
    ((∀ c, i ≠ .wrBorder c) → t.p.border = s.p.border ∧ t.pw.border = s.pw.border) ∧
    ((∀ c, i ≠ .wrBg0 c) → t.p.bg0 = s.p.bg0 ∧ t.pw.bg0 = s.pw.bg0) ∧
    ((∀ c, i ≠ .wrBg1 c) → t.p.bg1 = s.p.bg1 ∧ t.pw.bg1 = s.pw.bg1) ∧
    ((∀ c, i ≠ .wrBg2 c) → t.p.bg2 = s.p.bg2 ∧ t.pw.bg2 = s.pw.bg2) ∧
    ((∀ ign m, i ≠ .wrMode ign m) → t.p.mode = s.p.mode ∧ t.pw.mode = s.pw.mode) ∧
    ((∀ a ign, i ≠ .rd a ign) → t.rd = s.rd) ∧
    (i.tableRow.format = .hc → (∀ ign, i ≠ .start ign) → t.pix = s.pix) ∧ (i = .pal → t.pix = s.pix)

/-! ### The border detector -/

/-- 40_border_detect.md R110: LCOORD gives lx = x - 32 and ly = y - 36 of the output coordinate of pc, integers
in [-32, 352) and [-36, 236), and changes nothing else; it runs under every STAGE word. -/
def Obligations.LogicalCoordinateResult : Prop :=
  (∀ w, decodeStage .lcoord w = .ok .lcoord) ∧
  ∀ s : State, ∃ lx ly : Int,
    exec .lcoord s = .next { s with pix := { s.pix with lx := lx, ly := ly } } ∧
    lx + 32 = (s.pc.val % 384 : Nat) ∧ ly + 36 = (s.pc.val / 384 : Nat) ∧
    -32 ≤ lx ∧ lx < 352 ∧ -36 ≤ ly ∧ ly < 236

/-- 40_border_detect.md R111: BORDER gives inb = 0 exactly when (lx, ly) is in [0,320) x [0,200), changes nothing
else, and in output coordinates that is 32 <= x <= 351 and 36 <= y <= 235. -/
def Obligations.BorderTestResult : Prop :=
  (∀ s : State, ∃ inb : BitVec 1, exec .border s = .next { s with pix := { s.pix with inb := inb } } ∧
    (inb = 0#1 ↔ 0 ≤ s.pix.lx ∧ s.pix.lx < 320 ∧ 0 ≤ s.pix.ly ∧ s.pix.ly < 200)) ∧
  (∀ x y : Nat, borderBit (logicalX x) (logicalY y) = 0#1 ↔ 32 ≤ x ∧ x ≤ 351 ∧ 36 ≤ y ∧ y ≤ 235)

/-! ### Tile addressing and fetches -/

/-- 41_tile_fetch.md R120, R121: for a visible pixel TILE gives column and row with lx = 8 col + wc, ly = 8 row + wr,
col < 40, row < 25, and the tile index row x 40 + col < 1000; it changes nothing else. -/
def Obligations.TileSplitResult : Prop :=
  ∀ s : State, s.pix.inb = 0#1 → 0 ≤ s.pix.lx → s.pix.lx < 320 → 0 ≤ s.pix.ly → s.pix.ly < 200 →
    ∃ sp : TileSplit, exec .tile s = .next { s with pix := { s.pix with tile := sp } } ∧
      s.pix.lx = (sp.col.toNat * 8 + sp.wc.toNat : Nat) ∧ s.pix.ly = (sp.row.toNat * 8 + sp.wr.toNat : Nat) ∧
      sp.col.toNat < 40 ∧ sp.row.toNat < 25 ∧
      sp.index.toNat = sp.row.toNat * 40 + sp.col.toNat ∧ sp.index.toNat < 1000

/-- 41_tile_fetch.md R121. -/
def Obligations.TileIndexIsDistinctAndInRange : Prop :=
  ∀ (row row' : BitVec 5) (col col' : BitVec 6), row.toNat < 25 → row'.toNat < 25 → col.toNat < 40 → col'.toNat < 40 →
    (tileIndex row col).toNat = row.toNat * 40 + col.toNat ∧ (tileIndex row col).toNat ≤ 999 ∧
    row.toNat * 40 ≤ 960 ∧ row.toNat * 40 = row.toNat * 32 + row.toNat * 8 ∧
    (tileIndex row col = tileIndex row' col' → row = row' ∧ col = col')

/-- 41_tile_fetch.md R122 to R124, 20_memory.md R57: SCODE reads SB at the tile index, GROW reads CG at
g x 8 + wr (below 2048, the concatenation of 0, g and wr), ATTR reads CA at the tile index and takes bits 3:0 as
the foreground; each changes its own values only. Under ATTR_HI_POLICY = refuse the attribute's bits 7:4 are 0. -/
def Obligations.FetchesReadTheirByte : Prop :=
  (∀ (s : State) (g : Byte), s.pix.inb = 0#1 → s.pix.tile.index.toNat < 1000 →
    memRead s.sb s.pix.tile.index.toNat = some g →
    exec .scode s = .next { s with pix := { s.pix with g := g } }) ∧
  (∀ (s : State) (b : Byte), s.pix.inb = 0#1 →
    memRead s.cg (s.pix.g.toNat * 8 + s.pix.tile.wr.toNat) = some b →
    exec .grow s = .next { s with pix := { s.pix with b := b } }) ∧
  (∀ (s : State) (a : Byte), s.pix.inb = 0#1 → memRead s.ca s.pix.tile.index.toNat = some a →
    (s.platform.attrHi = .mask ∨ a.extractLsb' 4 4 = 0#4) →
    exec .attr s = .next { s with pix := { s.pix with a := a, fg := a.extractLsb' 0 4 } }) ∧
  (∀ (g : Byte) (wr : BitVec 3), glyphAddr g wr = 0#1 ++ g ++ wr ∧ (glyphAddr g wr).toNat < 2048)

/-- 93_implementation_defined.md U1, treatment `any value`: a byte or cell nothing has written since reset reads as a
free value of the reset it dates from, and the reading instruction or access completes; ATTR where the platform's
ATTR_HI_POLICY allows that value (U4). (The choice of this treatment is log 4.) -/
def Obligations.UnwrittenMemoryReadsAsSomeValue : Prop :=
  ∀ s : State,
    (s.pix.inb = 0#1 → s.pix.tile.index.toNat < 1000 → memRead s.sb s.pix.tile.index.toNat = none →
      exec .scode s =
        .next { s with pix := { s.pix with g := Config.unwrittenByte s.resets .sb s.pix.tile.index.toNat } }) ∧
    (s.pix.inb = 0#1 → memRead s.cg (s.pix.g.toNat * 8 + s.pix.tile.wr.toNat) = none →
      exec .grow s =
        .next { s with pix := { s.pix with
          b := Config.unwrittenByte s.resets .cg (s.pix.g.toNat * 8 + s.pix.tile.wr.toNat) } }) ∧
    (s.pix.inb = 0#1 → memRead s.ca s.pix.tile.index.toNat = none →
      (s.platform.attrHi = .mask ∨
        (Config.unwrittenByte s.resets .ca s.pix.tile.index.toNat).extractLsb' 4 4 = 0#4) →
      exec .attr s =
        .next { s with pix := { s.pix with
          a := Config.unwrittenByte s.resets .ca s.pix.tile.index.toNat
          fg := (Config.unwrittenByte s.resets .ca s.pix.tile.index.toNat).extractLsb' 0 4 } }) ∧
    (∀ a : BitVec 17, s.run = .idle → a.toNat < 104448 → memRead s.fb a.toNat = none →
      hostAccess (.getFB a) s = .next { s with got := some (Config.unwrittenRecord s.resets a.toNat) })

/-- 93_implementation_defined.md U4, 20_memory.md R52, 41_tile_fetch.md R126: where a visible pixel's stage stops: an
attribute byte with high bits is refused under ATTR_HI_POLICY = refuse (also where no foreground is shown: log 5), an
SB address from 1000 on does not exist, and a coordinate outside the visible area has no tile (the last two are the
model's faults, log 13). -/
def Obligations.FetchStagesStopWhere : Prop :=
  ∀ s : State, s.pix.inb = 0#1 →
    (s.platform.attrHi = .refuse → (s.byteIn .ca s.ca s.pix.tile.index.toNat).extractLsb' 4 4 ≠ 0#4 →
      exec .attr s = .refused .attributeHighBits) ∧
    (1000 ≤ s.pix.tile.index.toNat → exec .scode s = .fault .absentAddress) ∧
    (¬ (0 ≤ s.pix.lx ∧ s.pix.lx < 320 ∧ 0 ≤ s.pix.ly ∧ s.pix.ly < 200) → exec .tile s = .fault .tileOutside)

/-- 40_border_detect.md R112, 41_tile_fetch.md R126, 30_encoding.md R90: for a border pixel TILE, SCODE, GROW, ATTR
and both unpackers do nothing; nor does UNPACK.H in multicolor or UNPACK.M in hires. (That a stage whose condition
fails is a step without effect is the model's reading, log 11.) -/
def Obligations.StagesOutsideTheirConditionDoNothing : Prop :=
  ∀ s : State,
    (s.pix.inb = 1#1 → exec .tile s = .next s ∧ exec .scode s = .next s ∧ exec .grow s = .next s ∧
      exec .attr s = .next s ∧ exec .unpackH s = .next s ∧ exec .unpackM s = .next s) ∧
    (s.x.mode = 1#1 → exec .unpackH s = .next s) ∧ (s.x.mode = 0#1 → exec .unpackM s = .next s)

/-! ### The unpacker -/

/-- 42_unpack.md R135: UNPACK.H, under STAGE 00, gives v = {0, B[7 - wc]} and changes nothing else. -/
def Obligations.HiresUnpackTakesItsBit : Prop :=
  decodeStage .unpack 0b00#2 = .ok .unpackH ∧
  ∀ s : State, s.pix.inb = 0#1 → s.x.mode = 0#1 →
    ∃ v : BitVec 2, exec .unpackH s = .next { s with pix := { s.pix with v := v } } ∧
      v.getLsbD 1 = false ∧ v.getLsbD 0 = s.pix.b.getLsbD (7 - s.pix.tile.wc.toNat)

/-- 42_unpack.md R136: UNPACK.M, under STAGE 01, gives v = B[7-2k : 6-2k] with k = wc div 2, the high bit the more
significant, and changes nothing else. -/
def Obligations.MulticolorUnpackTakesItsPair : Prop :=
  decodeStage .unpack 0b01#2 = .ok .unpackM ∧
  ∀ s : State, s.pix.inb = 0#1 → s.x.mode = 1#1 →
    ∃ v : BitVec 2, exec .unpackM s = .next { s with pix := { s.pix with v := v } } ∧
      v.getLsbD 1 = s.pix.b.getLsbD (7 - 2 * (s.pix.tile.wc.toNat / 2)) ∧
      v.getLsbD 0 = s.pix.b.getLsbD (6 - 2 * (s.pix.tile.wc.toNat / 2))

/-- 42_unpack.md R137: the two columns of a pair unpack alike; in multicolor the output pixels 2j and 2j + 1 of a
line have the same colour index and the same record; a visible pixel's column within its tile is x mod 8; and a pair
never straddles two tiles. -/
def Obligations.PairedPixelsRenderIdentically : Prop :=
  (∀ (b : Byte) (k : BitVec 2), unpackMulti b (k ++ 0#1) = unpackMulti b (k ++ 1#1)) ∧
  (∀ (s : State) (j y : Nat), s.x.mode = 1#1 → pixelIndex s (2 * j) y = pixelIndex s (2 * j + 1) y ∧
    pixelRecord s (2 * j) y = pixelRecord s (2 * j + 1) y) ∧
  (∀ x y : Nat, VisibleXY x y → (tileSplit (logicalX x) (logicalY y)).wc.toNat = x % 8) ∧
  (∀ j y : Nat, VisibleXY (2 * j) y →
    VisibleXY (2 * j + 1) y ∧
    (tileSplit (logicalX (2 * j)) (logicalY y)).index = (tileSplit (logicalX (2 * j + 1)) (logicalY y)).index)

/-- 42_unpack.md R138: for a pair k, v = 2 x B[7-2k] + B[6-2k]: a multicolor value is formed from the two hires bits
of its columns, the left one more significant. -/
def Obligations.PairValueIsTwoHiresBits : Prop :=
  ∀ (b : Byte) (k : BitVec 2),
    (unpackMulti b (k ++ 0#1)).toNat = 2 * (unpackHires b (k ++ 0#1)).toNat + (unpackHires b (k ++ 1#1)).toNat ∧
    (unpackMulti b (k ++ 0#1)).toNat =
      2 * (b.getLsbD (7 - 2 * k.toNat)).toNat + (b.getLsbD (6 - 2 * k.toNat)).toNat

/-- 42_unpack.md R139: the whole-row forms, indexed by wc, are the two unpackers. -/
def Obligations.WholeRowFormsAgree : Prop :=
  ∀ (b : Byte) (wc : BitVec 3),
    ((rowHires b)[wc.toNat]?).map (fun bit => 0#1 ++ bit) = some (unpackHires b wc) ∧
    (rowMulti b)[wc.toNat]? = some (unpackMulti b wc) ∧ (rowHires b).length = 8 ∧ (rowMulti b).length = 8

/-! ### Colour selection and the palette -/

/-- 43_color_select.md R151 to R157: the seven pixel classes and their colour sources; each, selected, sets idx and
changes nothing else. -/
def Obligations.PixelClassesTakeTheirSource : Prop :=
  ∀ s : State,
    (s.pix.inb = 1#1 → exec .pxBorder s = .next { s with pix := { s.pix with idx := s.x.border } }) ∧
    (s.pix.inb = 0#1 → s.x.mode = 0#1 →
      (s.pix.v = 0#2 → exec .pxHbg s = .next { s with pix := { s.pix with idx := s.x.bg0 } }) ∧
      (s.pix.v = 1#2 → exec .pxHfg s = .next { s with pix := { s.pix with idx := s.pix.fg } })) ∧
    (s.pix.inb = 0#1 → s.x.mode = 1#1 →
      (s.pix.v = 0#2 → exec .pxMbg0 s = .next { s with pix := { s.pix with idx := s.x.bg0 } }) ∧
      (s.pix.v = 1#2 → exec .pxMbg1 s = .next { s with pix := { s.pix with idx := s.x.bg1 } }) ∧
      (s.pix.v = 2#2 → exec .pxMbg2 s = .next { s with pix := { s.pix with idx := s.x.bg2 } }) ∧
      (s.pix.v = 3#2 → exec .pxMfg s = .next { s with pix := { s.pix with idx := s.pix.fg } }))

/-- 43_color_select.md R150: a class the selector word does not match is not selected and does nothing (log 11). -/
def Obligations.UnselectedClassesDoNothing : Prop :=
  ∀ (i : Instr) (s : State), i.tableRow.format = .sel → i.tableRow.accepts s.selWord.toNat = false →
    exec i s = .next s

/-- 43_color_select.md R158: PAL writes the record of idx, fully opaque and with the palette's colour, to the cell
y x 384 + x of the pixel; every other cell and everything else is unchanged; it runs under every STAGE word. -/
def Obligations.PalWritesTheRecord : Prop :=
  (∀ w, decodeStage .pal w = .ok .pal) ∧
  ∀ s : State, ∃ fb, exec .pal s = .next { s with fb := fb } ∧
    memRead fb (s.pc.val / 384 * 384 + s.pc.val % 384) =
      some ⟨s.pix.idx, (Config.palette s.pix.idx).r, (Config.palette s.pix.idx).g, (Config.palette s.pix.idx).b, 0xFF#8⟩ ∧
    ∀ a, a ≠ s.pc.val / 384 * 384 + s.pc.val % 384 → memRead fb a = memRead s.fb a

/-! ### The pixel function -/

/-- 43_color_select.md R161 (c), 40_border_detect.md R112: outside the visible area the pixel takes the border
register, whatever MODE and the memories hold. -/
def Obligations.BorderPixelTakesBorderRegister : Prop :=
  ∀ (s : State) (x y : Nat), ¬ VisibleXY x y → pixelIndex s x y = .ok s.x.border

/-- 43_color_select.md R159, R161 (a), (b): a visible pixel's index, from the bytes SB[t], CG[g x 8 + wr], CA[t] and
the bits of the row byte the spec names, in both modes. -/
def Obligations.VisiblePixelFollowsItsGlyph : Prop :=
  ∀ (s : State) (x y : Nat) (g b a : Byte), VisibleXY x y →
    memRead s.sb ((y - 36) / 8 * 40 + (x - 32) / 8) = some g →
    memRead s.cg (g.toNat * 8 + (y - 36) % 8) = some b →
    memRead s.ca ((y - 36) / 8 * 40 + (x - 32) / 8) = some a →
    (s.platform.attrHi = .mask ∨ a.extractLsb' 4 4 = 0#4) →
    (s.x.mode = 0#1 → pixelIndex s x y =
      .ok (if b.getLsbD (7 - (x - 32) % 8) then a.extractLsb' 0 4 else s.x.bg0)) ∧
    (s.x.mode = 1#1 → pixelIndex s x y =
      .ok (if b.getLsbD (7 - 2 * ((x - 32) % 8 / 2)) then
            (if b.getLsbD (6 - 2 * ((x - 32) % 8 / 2)) then a.extractLsb' 0 4 else s.x.bg2)
          else (if b.getLsbD (6 - 2 * ((x - 32) % 8 / 2)) then s.x.bg1 else s.x.bg0)))

/-- 43_color_select.md R159, 41_tile_fetch.md R127: every pixel of every coordinate has an index, whatever the memories
hold: no fetched value is rejected (under ATTR_HI_POLICY = refuse, where every attribute's high bits are 0). -/
def Obligations.PixelFunctionIsTotal : Prop :=
  ∀ s : State, AttributesLegal s → ∀ x y : Nat, ∃ c, pixelIndex s x y = .ok c

/-- 60_exceptions.md R202, 70_reset_and_hazards.md R222: where the host has done its boot duty, the three bytes of a visible
pixel are ones the host has written, and the pixel function gives the same whichever reset's free values stand in the
bytes nothing has written (`resets` picks them, log 4). A frame started then does not depend on the active registers
before it either, which may hold free values (log 2): START latches the pending registers, all of which are written. -/
def Obligations.InitialisedFramesReadWrittenBytes : Prop :=
  (∀ (s : State) (n x y : Nat), s.initialised = true →
    pixelIndex { s with resets := n } x y = pixelIndex s x y ∧ pixelRecord { s with resets := n } x y = pixelRecord s x y) ∧
  (∀ (s : State) (x y : Nat), s.initialised = true → VisibleXY x y →
    ∃ g b a : Byte, memRead s.sb ((y - 36) / 8 * 40 + (x - 32) / 8) = some g ∧
      memRead s.cg (g.toNat * 8 + (y - 36) % 8) = some b ∧ memRead s.ca ((y - 36) / 8 * 40 + (x - 32) / 8) = some a) ∧
  (∀ (s : State) (n : Nat) (active : DisplayRegs) (ign : BitVec 3), s.initialised = true → s.run = .idle →
    s.pw = ⟨true, true, true, true, true⟩ ∧
    ∃ t u, exec (.start ign) s = .next t ∧ exec (.start ign) { s with resets := n, x := active } = .next u ∧
      t.x = s.p ∧ u.x = s.p ∧
      ∀ x y : Nat, pixelIndex u x y = pixelIndex t x y ∧ pixelRecord u x y = pixelRecord t x y)

/-- 43_color_select.md R160: a visible pixel of tile t depends on MODE, BG0, in multicolor BG1 and BG2, SB[t], the one byte
CG[SB[t] x 8 + wr] and bits 3:0 of CA[t] alone (ATTR_HI_POLICY = mask): two states that agree on these, written or not,
and differ in anything else, give it the same index. -/
def Obligations.VisiblePixelDependsOnlyOn : Prop :=
  ∀ (s t : State) (x y tile : Nat) (g : Byte), VisibleXY x y → tile = (y - 36) / 8 * 40 + (x - 32) / 8 →
    s.platform.attrHi = .mask → t.platform.attrHi = .mask →
    t.x.mode = s.x.mode → t.x.bg0 = s.x.bg0 →
    (s.x.mode = 1#1 → t.x.bg1 = s.x.bg1 ∧ t.x.bg2 = s.x.bg2) →
    s.byteIn .sb s.sb tile = g → t.byteIn .sb t.sb tile = g →
    t.byteIn .cg t.cg (g.toNat * 8 + (y - 36) % 8) = s.byteIn .cg s.cg (g.toNat * 8 + (y - 36) % 8) →
    (t.byteIn .ca t.ca tile).extractLsb' 0 4 = (s.byteIn .ca s.ca tile).extractLsb' 0 4 →
    pixelIndex t x y = pixelIndex s x y

/-! ### The raster step and the frame -/

/-- 44_frame_control.md R175, R176: a raster step while BUSY writes the pixel of pc to FB[pc] and advances pc; the
one at pc = 104447 sets pc to 0, RUN to IDLE and DONE to 1; every other cell and everything else is unchanged. (The
pixel in progress, the model's own, is dropped: log 8.) -/
def Obligations.RasterStepDrawsOnePixel : Prop :=
  ∀ (s : State) (c : Color), s.run = .busy → pixelIndex s (s.pc.val % 384) (s.pc.val / 384) = .ok c →
    ∃ t, exec .step s = .next t ∧
      t = { s with fb := t.fb, pc := t.pc, run := t.run, done := t.done, pix := PixelLatch.empty } ∧
      memRead t.fb s.pc.val =
        some ⟨c, (Config.palette c).r, (Config.palette c).g, (Config.palette c).b, 0xFF#8⟩ ∧
      (∀ a, a ≠ s.pc.val → memRead t.fb a = memRead s.fb a) ∧
      (s.pc.val ≠ 104447 → t.pc.val = s.pc.val + 1 ∧ t.run = .busy ∧ t.done = s.done) ∧
      (s.pc.val = 104447 → t.pc.val = 0 ∧ t.run = .idle ∧ t.done = true)

/-- 44_frame_control.md R177: the surface after the pixels at given positions have been drawn is the same in every
order they are drawn in. -/
def Obligations.FrameIsOrderIndependent : Prop :=
  ∀ (s t : State) (order order' : List (Fin Config.npix)), order.Perm order' →
    drawAll order s = .ok t → drawAll order' s = .ok t

/-- 30_encoding.md R90, 92_eei_decisions.md D1: nine stages one after another are one raster step: the finer grain
gives the same outcome, a stop included. -/
def Obligations.NineStagesAreOneRasterStep : Prop :=
  ∀ (s : State) (rest : List Turn), s.platform.wellFormed = true → s.run = .busy → s.pix = PixelLatch.empty →
    s.turns = List.replicate 9 .stage ++ rest →
    Host.Core.run Sys2Proof.core 9 s = exec .step { s with turns := rest }

/-- 44_frame_control.md R180: from a START while IDLE, and with no further move of the host, 104448 raster steps end the
frame: RUN is IDLE, DONE is 1, every cell of the surface holds the record of the pixel function of the latched frame
state, and the memories and pending registers are unchanged. (That an empty script gives every step to the rasterizer is
log 1; that START is accepted before the host has written the registers and memories, which then hold free values, is
logs 2, 3, 4 and 22.) -/
def Obligations.StartedFrameIsThePixelFunction : Prop :=
  ∀ (s : State) (w : BitVec 8) (ign : BitVec 3), s.platform.wellFormed = true → s.run = .idle → AttributesLegal s →
    decodeHc w = .start ign → s.turns = [.command w] →
    ∃ t, Host.Core.run Sys2Proof.core (1 + 104448) s = .next t ∧
      t.run = .idle ∧ t.done = true ∧ t.pc.val = 0 ∧ t.x = s.p ∧ t.p = s.p ∧
      t.cg = s.cg ∧ t.sb = s.sb ∧ t.ca = s.ca ∧
      ∀ x y : Nat, x < 384 → y < 272 →
        ∃ c, pixelIndex { s with x := s.p } x y = .ok c ∧
          memRead t.fb (y * 384 + x) =
            some ⟨c, (Config.palette c).r, (Config.palette c).g, (Config.palette c).b, 0xFF#8⟩

/-! ### The host's own accesses -/

/-- 20_memory.md R65: while BUSY a host write to CG, SB or CA and a host read of FB are refused, and writes to the
pending registers (the words 0x80 to 0xCF) are allowed and change nothing else. (That the refusal comes first also at
an address that does not exist, SB from 1000 and FB from 104448 on, is log 14; the record of written registers, log 3.) -/
def Obligations.HostAccessDuringFrameIsRefused : Prop :=
  ∀ (s : State) (rest : List Turn), s.platform.wellFormed = true → s.run = .busy →
    (∀ a b, s.turns = .access (.setCG a b) :: rest → step s = .refused .hostAccessDuringFrame) ∧
    (∀ a b, s.turns = .access (.setSB a b) :: rest → step s = .refused .hostAccessDuringFrame) ∧
    (∀ a b, s.turns = .access (.setCA a b) :: rest → step s = .refused .hostAccessDuringFrame) ∧
    (∀ a, s.turns = .access (.getFB a) :: rest → step s = .refused .hostAccessDuringFrame) ∧
    (∀ w : BitVec 8, 0x80 ≤ w.toNat → w.toNat < 0xD0 → s.turns = .command w :: rest →
      ∃ t, step s = .next t ∧ t = { s with p := t.p, pw := t.pw, turns := rest })

/-- 20_memory.md R63, 60_exceptions.md R202: while IDLE a host write to CG, SB or CA is there for every later read of
its address and changes nothing else; an SB address from 1000 on does not exist (R52; the fault is the model's, log 13). -/
def Obligations.HostWritesAreSeen : Prop :=
  ∀ s : State, s.run = .idle →
    (∀ (a : BitVec 12) (b : Byte), ∃ m, hostAccess (.setCG a b) s = .next { s with cg := m } ∧
      ∀ k, memRead m k = if k = a.toNat then some b else memRead s.cg k) ∧
    (∀ (a : BitVec 10) (b : Byte), a.toNat < 1000 → ∃ m, hostAccess (.setSB a b) s = .next { s with sb := m } ∧
      ∀ k, memRead m k = if k = a.toNat then some b else memRead s.sb k) ∧
    (∀ (a : BitVec 10) (b : Byte), ∃ m, hostAccess (.setCA a b) s = .next { s with ca := m } ∧
      ∀ k, memRead m k = if k = a.toNat then some b else memRead s.ca k) ∧
    (∀ (a : BitVec 10) (b : Byte), 1000 ≤ a.toNat → hostAccess (.setSB a b) s = .fault .absentAddress)

/-- 60_exceptions.md R202: while IDLE a host read of FB returns the cell's record, which for a cell nothing has written
since reset is a free value (93_implementation_defined.md U1, log 4), and changes nothing else; an address from 104448 on
does not exist (the fault is the model's, log 13). (That the state keeps the record is log 12.) -/
def Obligations.HostReadsTheSurface : Prop :=
  ∀ (s : State) (a : BitVec 17), s.run = .idle →
    (∀ r, a.toNat < 104448 → memRead s.fb a.toNat = some r →
      hostAccess (.getFB a) s = .next { s with got := some r }) ∧
    (a.toNat < 104448 → ∃ r, hostAccess (.getFB a) s = .next { s with got := some r }) ∧
    (104448 ≤ a.toNat → hostAccess (.getFB a) s = .fault .absentAddress)
end

