-- ==== Sys2Proof/Laws/Memory.lean ====
section
/-! SUPPORT. The laws of memory: a read after a write, the canonical form, commuting writes, and a memory written in full. -/

namespace Sys2Proof.Machine

variable {α : Type}

@[simp] theorem memRead_nil (a : Nat) : memRead ([] : List (Nat × α)) a = none := rfl

/-- A read of the address written gives the value written. -/
@[simp] theorem memRead_memWrite_same (m : List (Nat × α)) (a : Nat) (v : α) :
    memRead (memWrite m a v) a = some v := by
  induction m with
  | nil => simp [memWrite, memRead]
  | cons c m ih =>
    obtain ⟨b, w⟩ := c
    unfold memWrite
    split
    · simp [memRead]
    · split
      · simp [memRead]
      · next h => simp [memRead, h, ih]

/-- A write leaves every other address alone. -/
theorem memRead_memWrite_other (m : List (Nat × α)) {a c : Nat} (v : α) (h : c ≠ a) :
    memRead (memWrite m a v) c = memRead m c := by
  induction m with
  | nil => simp [memWrite, memRead, h]
  | cons d m ih =>
    obtain ⟨b, w⟩ := d
    unfold memWrite
    split
    · simp [memRead, h]
    · split
      · next hab => subst hab; simp [memRead, h]
      · simp only [memRead]; split
        · rfl
        · exact ih

/-- Both laws at once. -/
theorem memRead_memWrite (m : List (Nat × α)) (a c : Nat) (v : α) :
    memRead (memWrite m a v) c = if c = a then some v else memRead m c := by
  split
  · next h => subst h; simp
  · next h => exact memRead_memWrite_other m v h

/-- What a written memory lists: the new cell, or a cell it listed before. -/
theorem mem_memWrite {m : List (Nat × α)} {a : Nat} {v : α} {c : Nat × α} (h : c ∈ memWrite m a v) :
    c = (a, v) ∨ c ∈ m := by
  induction m with
  | nil => simpa [memWrite] using h
  | cons d m ih =>
    obtain ⟨b, w⟩ := d
    unfold memWrite at h
    split at h
    · simpa using h
    · split at h
      · rcases List.mem_cons.1 h with h | h
        · exact .inl h
        · exact .inr (List.mem_cons_of_mem _ h)
      · rcases List.mem_cons.1 h with h | h
        · exact .inr (h ▸ List.mem_cons_self)
        · exact (ih h).imp id (List.mem_cons_of_mem _)

/-- A write in range keeps the canonical form. -/
theorem memWrite_wf {size : Nat} {m : List (Nat × α)} (hm : MemWf size m) {a : Nat} (ha : a < size) (v : α) :
    MemWf size (memWrite m a v) := by
  refine ⟨?_, fun c hc => (mem_memWrite hc).elim (fun h => h ▸ ha) (hm.2 c)⟩
  obtain ⟨hs, -⟩ := hm
  induction m with
  | nil => simp [memWrite]
  | cons d m ih =>
    obtain ⟨b, w⟩ := d
    rw [List.pairwise_cons] at hs
    obtain ⟨hlt, hrest⟩ := hs
    unfold memWrite
    split
    · next hab =>
      refine List.pairwise_cons.2 ⟨fun c hc => ?_, List.pairwise_cons.2 ⟨hlt, hrest⟩⟩
      rcases List.mem_cons.1 hc with rfl | hc
      · exact hab
      · exact Nat.lt_trans hab (hlt c hc)
    · split
      · next hab => subst hab; exact List.pairwise_cons.2 ⟨hlt, hrest⟩
      · next h1 h2 =>
        refine List.pairwise_cons.2 ⟨fun c hc => ?_, ih hrest⟩
        rcases mem_memWrite hc with rfl | hc
        · show b < a
          omega
        · exact hlt c hc

/-- The empty memory is in canonical form. -/
theorem memWf_nil (size : Nat) : MemWf size ([] : List (Nat × α)) :=
  ⟨List.Pairwise.nil, fun _ h => nomatch h⟩

/-- Reset's memories are in canonical form. -/
theorem State.reset_memWf : State.reset.memWf := ⟨memWf_nil _, memWf_nil _, memWf_nil _, memWf_nil _⟩

section
variable {s : State} (h : s.memWf)
include h

/-- A host write to CG keeps the canonical form. -/
theorem State.writeCG_memWf (a : BitVec 12) (b : Byte) : (s.writeCG a b).memWf :=
  ⟨memWrite_wf h.1 a.isLt b, h.2.1, h.2.2.1, h.2.2.2⟩

/-- A host write to an address SB has keeps it. -/
theorem State.writeSB_memWf {a : BitVec 10} (ha : a.toNat < Config.sbSize) (b : Byte) : (s.writeSB a b).memWf :=
  ⟨h.1, memWrite_wf h.2.1 ha b, h.2.2.1, h.2.2.2⟩

/-- A host write to CA keeps it. -/
theorem State.writeCA_memWf (a : BitVec 10) (b : Byte) : (s.writeCA a b).memWf :=
  ⟨h.1, h.2.1, memWrite_wf h.2.2.1 a.isLt b, h.2.2.2⟩

/-- A pixel written keeps it. -/
theorem State.writeFB_memWf (a : Fin Config.npix) (r : PixelRecord) : (s.writeFB a r).memWf :=
  ⟨h.1, h.2.1, h.2.2.1, memWrite_wf h.2.2.2 a.isLt r⟩

end

/-- Writes to different addresses commute. -/
theorem memWrite_comm (m : List (Nat × α)) {a b : Nat} (v w : α) (h : a ≠ b) :
    memWrite (memWrite m a v) b w = memWrite (memWrite m b w) a v := by
  induction m with
  | nil => simp only [memWrite]; grind
  | cons c m ih =>
    obtain ⟨k, u⟩ := c
    simp only [memWrite]
    grind [memWrite]

/-- `covers` says that every address below n reads as something. -/
theorem covers_iff (m : List (Nat × α)) (n : Nat) : covers m n = true ↔ ∀ a < n, (memRead m a).isSome := by
  simp [covers]

/-- A memory written in full: address a below n holds f a. -/
def rangeCells (n : Nat) (f : Nat → α) : List (Nat × α) := (List.range n).map fun a => (a, f a)

/-- A list of cells in which address a is listed once reads as its value. -/
theorem memRead_map_range' (f : Nat → α) (n : Nat) :
    ∀ k a, memRead ((List.range' k n).map fun a => (a, f a)) a = if k ≤ a ∧ a < k + n then some (f a) else none := by
  induction n with
  | zero => intro k a; rw [if_neg (by omega)]; rfl
  | succ n ih =>
    intro k a
    rw [List.range'_succ, List.map_cons, memRead, ih]
    grind

theorem memRead_rangeCells (n : Nat) (f : Nat → α) (a : Nat) :
    memRead (rangeCells n f) a = if a < n then some (f a) else none := by
  rw [rangeCells, List.range_eq_range', memRead_map_range']
  simp

theorem covers_rangeCells {n k : Nat} (f : Nat → α) (h : k ≤ n) : covers (rangeCells n f) k = true := by
  rw [covers_iff]
  intro a ha
  rw [memRead_rangeCells, if_pos (Nat.lt_of_lt_of_le ha h)]
  rfl

end Sys2Proof.Machine
end

