-- ==== Sys2Proof/Laws/State.lean ====
section
/-! SUPPORT. The fields of a state after each named update: one lemma per field per update. -/

namespace Sys2Proof.Machine

variable (s : State)

/-! ### setPending -/

@[simp] theorem State.setPending_x (q : DisplayRegs) (w : PendingWritten) : (s.setPending q w).x = s.x := rfl
@[simp] theorem State.setPending_p (q : DisplayRegs) (w : PendingWritten) : (s.setPending q w).p = q := rfl
@[simp] theorem State.setPending_pw (q : DisplayRegs) (w : PendingWritten) : (s.setPending q w).pw = w := rfl
@[simp] theorem State.setPending_pc (q : DisplayRegs) (w : PendingWritten) : (s.setPending q w).pc = s.pc := rfl
@[simp] theorem State.setPending_run (q : DisplayRegs) (w : PendingWritten) : (s.setPending q w).run = s.run := rfl
@[simp] theorem State.setPending_done (q : DisplayRegs) (w : PendingWritten) : (s.setPending q w).done = s.done := rfl
@[simp] theorem State.setPending_cg (q : DisplayRegs) (w : PendingWritten) : (s.setPending q w).cg = s.cg := rfl
@[simp] theorem State.setPending_sb (q : DisplayRegs) (w : PendingWritten) : (s.setPending q w).sb = s.sb := rfl
@[simp] theorem State.setPending_ca (q : DisplayRegs) (w : PendingWritten) : (s.setPending q w).ca = s.ca := rfl
@[simp] theorem State.setPending_fb (q : DisplayRegs) (w : PendingWritten) : (s.setPending q w).fb = s.fb := rfl
@[simp] theorem State.setPending_pix (q : DisplayRegs) (w : PendingWritten) : (s.setPending q w).pix = s.pix := rfl
@[simp] theorem State.setPending_resets (q : DisplayRegs) (w : PendingWritten) : (s.setPending q w).resets = s.resets := rfl
@[simp] theorem State.setPending_rd (q : DisplayRegs) (w : PendingWritten) : (s.setPending q w).rd = s.rd := rfl
@[simp] theorem State.setPending_got (q : DisplayRegs) (w : PendingWritten) : (s.setPending q w).got = s.got := rfl
@[simp] theorem State.setPending_turns (q : DisplayRegs) (w : PendingWritten) : (s.setPending q w).turns = s.turns := rfl
@[simp] theorem State.setPending_platform (q : DisplayRegs) (w : PendingWritten) : (s.setPending q w).platform = s.platform := rfl

/-! ### latchDisplay -/

@[simp] theorem State.latchDisplay_x : (s.latchDisplay).x = s.p := rfl
@[simp] theorem State.latchDisplay_p : (s.latchDisplay).p = s.p := rfl
@[simp] theorem State.latchDisplay_pw : (s.latchDisplay).pw = s.pw := rfl
@[simp] theorem State.latchDisplay_pc : (s.latchDisplay).pc = s.pc := rfl
@[simp] theorem State.latchDisplay_run : (s.latchDisplay).run = s.run := rfl
@[simp] theorem State.latchDisplay_done : (s.latchDisplay).done = s.done := rfl
@[simp] theorem State.latchDisplay_cg : (s.latchDisplay).cg = s.cg := rfl
@[simp] theorem State.latchDisplay_sb : (s.latchDisplay).sb = s.sb := rfl
@[simp] theorem State.latchDisplay_ca : (s.latchDisplay).ca = s.ca := rfl
@[simp] theorem State.latchDisplay_fb : (s.latchDisplay).fb = s.fb := rfl
@[simp] theorem State.latchDisplay_pix : (s.latchDisplay).pix = s.pix := rfl
@[simp] theorem State.latchDisplay_resets : (s.latchDisplay).resets = s.resets := rfl
@[simp] theorem State.latchDisplay_rd : (s.latchDisplay).rd = s.rd := rfl
@[simp] theorem State.latchDisplay_got : (s.latchDisplay).got = s.got := rfl
@[simp] theorem State.latchDisplay_turns : (s.latchDisplay).turns = s.turns := rfl
@[simp] theorem State.latchDisplay_platform : (s.latchDisplay).platform = s.platform := rfl

/-! ### setRaster -/

@[simp] theorem State.setRaster_x (n : Fin Config.npix) (r : RunFlag) (d : Bool) : (s.setRaster n r d).x = s.x := rfl
@[simp] theorem State.setRaster_p (n : Fin Config.npix) (r : RunFlag) (d : Bool) : (s.setRaster n r d).p = s.p := rfl
@[simp] theorem State.setRaster_pw (n : Fin Config.npix) (r : RunFlag) (d : Bool) : (s.setRaster n r d).pw = s.pw := rfl
@[simp] theorem State.setRaster_pc (n : Fin Config.npix) (r : RunFlag) (d : Bool) : (s.setRaster n r d).pc = n := rfl
@[simp] theorem State.setRaster_run (n : Fin Config.npix) (r : RunFlag) (d : Bool) : (s.setRaster n r d).run = r := rfl
@[simp] theorem State.setRaster_done (n : Fin Config.npix) (r : RunFlag) (d : Bool) : (s.setRaster n r d).done = d := rfl
@[simp] theorem State.setRaster_cg (n : Fin Config.npix) (r : RunFlag) (d : Bool) : (s.setRaster n r d).cg = s.cg := rfl
@[simp] theorem State.setRaster_sb (n : Fin Config.npix) (r : RunFlag) (d : Bool) : (s.setRaster n r d).sb = s.sb := rfl
@[simp] theorem State.setRaster_ca (n : Fin Config.npix) (r : RunFlag) (d : Bool) : (s.setRaster n r d).ca = s.ca := rfl
@[simp] theorem State.setRaster_fb (n : Fin Config.npix) (r : RunFlag) (d : Bool) : (s.setRaster n r d).fb = s.fb := rfl
@[simp] theorem State.setRaster_pix (n : Fin Config.npix) (r : RunFlag) (d : Bool) : (s.setRaster n r d).pix = s.pix := rfl
@[simp] theorem State.setRaster_resets (n : Fin Config.npix) (r : RunFlag) (d : Bool) : (s.setRaster n r d).resets = s.resets := rfl
@[simp] theorem State.setRaster_rd (n : Fin Config.npix) (r : RunFlag) (d : Bool) : (s.setRaster n r d).rd = s.rd := rfl
@[simp] theorem State.setRaster_got (n : Fin Config.npix) (r : RunFlag) (d : Bool) : (s.setRaster n r d).got = s.got := rfl
@[simp] theorem State.setRaster_turns (n : Fin Config.npix) (r : RunFlag) (d : Bool) : (s.setRaster n r d).turns = s.turns := rfl
@[simp] theorem State.setRaster_platform (n : Fin Config.npix) (r : RunFlag) (d : Bool) : (s.setRaster n r d).platform = s.platform := rfl

/-! ### setPix -/

@[simp] theorem State.setPix_x (q : PixelLatch) : (s.setPix q).x = s.x := rfl
@[simp] theorem State.setPix_p (q : PixelLatch) : (s.setPix q).p = s.p := rfl
@[simp] theorem State.setPix_pw (q : PixelLatch) : (s.setPix q).pw = s.pw := rfl
@[simp] theorem State.setPix_pc (q : PixelLatch) : (s.setPix q).pc = s.pc := rfl
@[simp] theorem State.setPix_run (q : PixelLatch) : (s.setPix q).run = s.run := rfl
@[simp] theorem State.setPix_done (q : PixelLatch) : (s.setPix q).done = s.done := rfl
@[simp] theorem State.setPix_cg (q : PixelLatch) : (s.setPix q).cg = s.cg := rfl
@[simp] theorem State.setPix_sb (q : PixelLatch) : (s.setPix q).sb = s.sb := rfl
@[simp] theorem State.setPix_ca (q : PixelLatch) : (s.setPix q).ca = s.ca := rfl
@[simp] theorem State.setPix_fb (q : PixelLatch) : (s.setPix q).fb = s.fb := rfl
@[simp] theorem State.setPix_pix (q : PixelLatch) : (s.setPix q).pix = q := rfl
@[simp] theorem State.setPix_resets (q : PixelLatch) : (s.setPix q).resets = s.resets := rfl
@[simp] theorem State.setPix_rd (q : PixelLatch) : (s.setPix q).rd = s.rd := rfl
@[simp] theorem State.setPix_got (q : PixelLatch) : (s.setPix q).got = s.got := rfl
@[simp] theorem State.setPix_turns (q : PixelLatch) : (s.setPix q).turns = s.turns := rfl
@[simp] theorem State.setPix_platform (q : PixelLatch) : (s.setPix q).platform = s.platform := rfl

/-! ### setRd -/

@[simp] theorem State.setRd_x (v : BitVec 4) : (s.setRd v).x = s.x := rfl
@[simp] theorem State.setRd_p (v : BitVec 4) : (s.setRd v).p = s.p := rfl
@[simp] theorem State.setRd_pw (v : BitVec 4) : (s.setRd v).pw = s.pw := rfl
@[simp] theorem State.setRd_pc (v : BitVec 4) : (s.setRd v).pc = s.pc := rfl
@[simp] theorem State.setRd_run (v : BitVec 4) : (s.setRd v).run = s.run := rfl
@[simp] theorem State.setRd_done (v : BitVec 4) : (s.setRd v).done = s.done := rfl
@[simp] theorem State.setRd_cg (v : BitVec 4) : (s.setRd v).cg = s.cg := rfl
@[simp] theorem State.setRd_sb (v : BitVec 4) : (s.setRd v).sb = s.sb := rfl
@[simp] theorem State.setRd_ca (v : BitVec 4) : (s.setRd v).ca = s.ca := rfl
@[simp] theorem State.setRd_fb (v : BitVec 4) : (s.setRd v).fb = s.fb := rfl
@[simp] theorem State.setRd_pix (v : BitVec 4) : (s.setRd v).pix = s.pix := rfl
@[simp] theorem State.setRd_resets (v : BitVec 4) : (s.setRd v).resets = s.resets := rfl
@[simp] theorem State.setRd_rd (v : BitVec 4) : (s.setRd v).rd = v := rfl
@[simp] theorem State.setRd_got (v : BitVec 4) : (s.setRd v).got = s.got := rfl
@[simp] theorem State.setRd_turns (v : BitVec 4) : (s.setRd v).turns = s.turns := rfl
@[simp] theorem State.setRd_platform (v : BitVec 4) : (s.setRd v).platform = s.platform := rfl

/-! ### setGot -/

@[simp] theorem State.setGot_x (r : PixelRecord) : (s.setGot r).x = s.x := rfl
@[simp] theorem State.setGot_p (r : PixelRecord) : (s.setGot r).p = s.p := rfl
@[simp] theorem State.setGot_pw (r : PixelRecord) : (s.setGot r).pw = s.pw := rfl
@[simp] theorem State.setGot_pc (r : PixelRecord) : (s.setGot r).pc = s.pc := rfl
@[simp] theorem State.setGot_run (r : PixelRecord) : (s.setGot r).run = s.run := rfl
@[simp] theorem State.setGot_done (r : PixelRecord) : (s.setGot r).done = s.done := rfl
@[simp] theorem State.setGot_cg (r : PixelRecord) : (s.setGot r).cg = s.cg := rfl
@[simp] theorem State.setGot_sb (r : PixelRecord) : (s.setGot r).sb = s.sb := rfl
@[simp] theorem State.setGot_ca (r : PixelRecord) : (s.setGot r).ca = s.ca := rfl
@[simp] theorem State.setGot_fb (r : PixelRecord) : (s.setGot r).fb = s.fb := rfl
@[simp] theorem State.setGot_pix (r : PixelRecord) : (s.setGot r).pix = s.pix := rfl
@[simp] theorem State.setGot_resets (r : PixelRecord) : (s.setGot r).resets = s.resets := rfl
@[simp] theorem State.setGot_rd (r : PixelRecord) : (s.setGot r).rd = s.rd := rfl
@[simp] theorem State.setGot_got (r : PixelRecord) : (s.setGot r).got = some r := rfl
@[simp] theorem State.setGot_turns (r : PixelRecord) : (s.setGot r).turns = s.turns := rfl
@[simp] theorem State.setGot_platform (r : PixelRecord) : (s.setGot r).platform = s.platform := rfl

/-! ### setTurns -/

@[simp] theorem State.setTurns_x (ts : List Turn) : (s.setTurns ts).x = s.x := rfl
@[simp] theorem State.setTurns_p (ts : List Turn) : (s.setTurns ts).p = s.p := rfl
@[simp] theorem State.setTurns_pw (ts : List Turn) : (s.setTurns ts).pw = s.pw := rfl
@[simp] theorem State.setTurns_pc (ts : List Turn) : (s.setTurns ts).pc = s.pc := rfl
@[simp] theorem State.setTurns_run (ts : List Turn) : (s.setTurns ts).run = s.run := rfl
@[simp] theorem State.setTurns_done (ts : List Turn) : (s.setTurns ts).done = s.done := rfl
@[simp] theorem State.setTurns_cg (ts : List Turn) : (s.setTurns ts).cg = s.cg := rfl
@[simp] theorem State.setTurns_sb (ts : List Turn) : (s.setTurns ts).sb = s.sb := rfl
@[simp] theorem State.setTurns_ca (ts : List Turn) : (s.setTurns ts).ca = s.ca := rfl
@[simp] theorem State.setTurns_fb (ts : List Turn) : (s.setTurns ts).fb = s.fb := rfl
@[simp] theorem State.setTurns_pix (ts : List Turn) : (s.setTurns ts).pix = s.pix := rfl
@[simp] theorem State.setTurns_resets (ts : List Turn) : (s.setTurns ts).resets = s.resets := rfl
@[simp] theorem State.setTurns_rd (ts : List Turn) : (s.setTurns ts).rd = s.rd := rfl
@[simp] theorem State.setTurns_got (ts : List Turn) : (s.setTurns ts).got = s.got := rfl
@[simp] theorem State.setTurns_turns (ts : List Turn) : (s.setTurns ts).turns = ts := rfl
@[simp] theorem State.setTurns_platform (ts : List Turn) : (s.setTurns ts).platform = s.platform := rfl

/-! ### writeCG -/

@[simp] theorem State.writeCG_x (a : BitVec 12) (b : Byte) : (s.writeCG a b).x = s.x := rfl
@[simp] theorem State.writeCG_p (a : BitVec 12) (b : Byte) : (s.writeCG a b).p = s.p := rfl
@[simp] theorem State.writeCG_pw (a : BitVec 12) (b : Byte) : (s.writeCG a b).pw = s.pw := rfl
@[simp] theorem State.writeCG_pc (a : BitVec 12) (b : Byte) : (s.writeCG a b).pc = s.pc := rfl
@[simp] theorem State.writeCG_run (a : BitVec 12) (b : Byte) : (s.writeCG a b).run = s.run := rfl
@[simp] theorem State.writeCG_done (a : BitVec 12) (b : Byte) : (s.writeCG a b).done = s.done := rfl
@[simp] theorem State.writeCG_cg (a : BitVec 12) (b : Byte) : (s.writeCG a b).cg = memWrite s.cg a.toNat b := rfl
@[simp] theorem State.writeCG_sb (a : BitVec 12) (b : Byte) : (s.writeCG a b).sb = s.sb := rfl
@[simp] theorem State.writeCG_ca (a : BitVec 12) (b : Byte) : (s.writeCG a b).ca = s.ca := rfl
@[simp] theorem State.writeCG_fb (a : BitVec 12) (b : Byte) : (s.writeCG a b).fb = s.fb := rfl
@[simp] theorem State.writeCG_pix (a : BitVec 12) (b : Byte) : (s.writeCG a b).pix = s.pix := rfl
@[simp] theorem State.writeCG_resets (a : BitVec 12) (b : Byte) : (s.writeCG a b).resets = s.resets := rfl
@[simp] theorem State.writeCG_rd (a : BitVec 12) (b : Byte) : (s.writeCG a b).rd = s.rd := rfl
@[simp] theorem State.writeCG_got (a : BitVec 12) (b : Byte) : (s.writeCG a b).got = s.got := rfl
@[simp] theorem State.writeCG_turns (a : BitVec 12) (b : Byte) : (s.writeCG a b).turns = s.turns := rfl
@[simp] theorem State.writeCG_platform (a : BitVec 12) (b : Byte) : (s.writeCG a b).platform = s.platform := rfl

/-! ### writeSB -/

@[simp] theorem State.writeSB_x (a : BitVec 10) (b : Byte) : (s.writeSB a b).x = s.x := rfl
@[simp] theorem State.writeSB_p (a : BitVec 10) (b : Byte) : (s.writeSB a b).p = s.p := rfl
@[simp] theorem State.writeSB_pw (a : BitVec 10) (b : Byte) : (s.writeSB a b).pw = s.pw := rfl
@[simp] theorem State.writeSB_pc (a : BitVec 10) (b : Byte) : (s.writeSB a b).pc = s.pc := rfl
@[simp] theorem State.writeSB_run (a : BitVec 10) (b : Byte) : (s.writeSB a b).run = s.run := rfl
@[simp] theorem State.writeSB_done (a : BitVec 10) (b : Byte) : (s.writeSB a b).done = s.done := rfl
@[simp] theorem State.writeSB_cg (a : BitVec 10) (b : Byte) : (s.writeSB a b).cg = s.cg := rfl
@[simp] theorem State.writeSB_sb (a : BitVec 10) (b : Byte) : (s.writeSB a b).sb = memWrite s.sb a.toNat b := rfl
@[simp] theorem State.writeSB_ca (a : BitVec 10) (b : Byte) : (s.writeSB a b).ca = s.ca := rfl
@[simp] theorem State.writeSB_fb (a : BitVec 10) (b : Byte) : (s.writeSB a b).fb = s.fb := rfl
@[simp] theorem State.writeSB_pix (a : BitVec 10) (b : Byte) : (s.writeSB a b).pix = s.pix := rfl
@[simp] theorem State.writeSB_resets (a : BitVec 10) (b : Byte) : (s.writeSB a b).resets = s.resets := rfl
@[simp] theorem State.writeSB_rd (a : BitVec 10) (b : Byte) : (s.writeSB a b).rd = s.rd := rfl
@[simp] theorem State.writeSB_got (a : BitVec 10) (b : Byte) : (s.writeSB a b).got = s.got := rfl
@[simp] theorem State.writeSB_turns (a : BitVec 10) (b : Byte) : (s.writeSB a b).turns = s.turns := rfl
@[simp] theorem State.writeSB_platform (a : BitVec 10) (b : Byte) : (s.writeSB a b).platform = s.platform := rfl

/-! ### writeCA -/

@[simp] theorem State.writeCA_x (a : BitVec 10) (b : Byte) : (s.writeCA a b).x = s.x := rfl
@[simp] theorem State.writeCA_p (a : BitVec 10) (b : Byte) : (s.writeCA a b).p = s.p := rfl
@[simp] theorem State.writeCA_pw (a : BitVec 10) (b : Byte) : (s.writeCA a b).pw = s.pw := rfl
@[simp] theorem State.writeCA_pc (a : BitVec 10) (b : Byte) : (s.writeCA a b).pc = s.pc := rfl
@[simp] theorem State.writeCA_run (a : BitVec 10) (b : Byte) : (s.writeCA a b).run = s.run := rfl
@[simp] theorem State.writeCA_done (a : BitVec 10) (b : Byte) : (s.writeCA a b).done = s.done := rfl
@[simp] theorem State.writeCA_cg (a : BitVec 10) (b : Byte) : (s.writeCA a b).cg = s.cg := rfl
@[simp] theorem State.writeCA_sb (a : BitVec 10) (b : Byte) : (s.writeCA a b).sb = s.sb := rfl
@[simp] theorem State.writeCA_ca (a : BitVec 10) (b : Byte) : (s.writeCA a b).ca = memWrite s.ca a.toNat b := rfl
@[simp] theorem State.writeCA_fb (a : BitVec 10) (b : Byte) : (s.writeCA a b).fb = s.fb := rfl
@[simp] theorem State.writeCA_pix (a : BitVec 10) (b : Byte) : (s.writeCA a b).pix = s.pix := rfl
@[simp] theorem State.writeCA_resets (a : BitVec 10) (b : Byte) : (s.writeCA a b).resets = s.resets := rfl
@[simp] theorem State.writeCA_rd (a : BitVec 10) (b : Byte) : (s.writeCA a b).rd = s.rd := rfl
@[simp] theorem State.writeCA_got (a : BitVec 10) (b : Byte) : (s.writeCA a b).got = s.got := rfl
@[simp] theorem State.writeCA_turns (a : BitVec 10) (b : Byte) : (s.writeCA a b).turns = s.turns := rfl
@[simp] theorem State.writeCA_platform (a : BitVec 10) (b : Byte) : (s.writeCA a b).platform = s.platform := rfl

/-! ### writeFB -/

@[simp] theorem State.writeFB_x (a : Fin Config.npix) (r : PixelRecord) : (s.writeFB a r).x = s.x := rfl
@[simp] theorem State.writeFB_p (a : Fin Config.npix) (r : PixelRecord) : (s.writeFB a r).p = s.p := rfl
@[simp] theorem State.writeFB_pw (a : Fin Config.npix) (r : PixelRecord) : (s.writeFB a r).pw = s.pw := rfl
@[simp] theorem State.writeFB_pc (a : Fin Config.npix) (r : PixelRecord) : (s.writeFB a r).pc = s.pc := rfl
@[simp] theorem State.writeFB_run (a : Fin Config.npix) (r : PixelRecord) : (s.writeFB a r).run = s.run := rfl
@[simp] theorem State.writeFB_done (a : Fin Config.npix) (r : PixelRecord) : (s.writeFB a r).done = s.done := rfl
@[simp] theorem State.writeFB_cg (a : Fin Config.npix) (r : PixelRecord) : (s.writeFB a r).cg = s.cg := rfl
@[simp] theorem State.writeFB_sb (a : Fin Config.npix) (r : PixelRecord) : (s.writeFB a r).sb = s.sb := rfl
@[simp] theorem State.writeFB_ca (a : Fin Config.npix) (r : PixelRecord) : (s.writeFB a r).ca = s.ca := rfl
@[simp] theorem State.writeFB_fb (a : Fin Config.npix) (r : PixelRecord) : (s.writeFB a r).fb = memWrite s.fb a.val r := rfl
@[simp] theorem State.writeFB_pix (a : Fin Config.npix) (r : PixelRecord) : (s.writeFB a r).pix = s.pix := rfl
@[simp] theorem State.writeFB_resets (a : Fin Config.npix) (r : PixelRecord) : (s.writeFB a r).resets = s.resets := rfl
@[simp] theorem State.writeFB_rd (a : Fin Config.npix) (r : PixelRecord) : (s.writeFB a r).rd = s.rd := rfl
@[simp] theorem State.writeFB_got (a : Fin Config.npix) (r : PixelRecord) : (s.writeFB a r).got = s.got := rfl
@[simp] theorem State.writeFB_turns (a : Fin Config.npix) (r : PixelRecord) : (s.writeFB a r).turns = s.turns := rfl
@[simp] theorem State.writeFB_platform (a : Fin Config.npix) (r : PixelRecord) : (s.writeFB a r).platform = s.platform := rfl

/-! ### beginFrame -/

@[simp] theorem State.beginFrame_x : (s.beginFrame).x = s.p := rfl
@[simp] theorem State.beginFrame_p : (s.beginFrame).p = s.p := rfl
@[simp] theorem State.beginFrame_pw : (s.beginFrame).pw = s.pw := rfl
@[simp] theorem State.beginFrame_pc : (s.beginFrame).pc = ⟨0, by decide⟩ := rfl
@[simp] theorem State.beginFrame_run : (s.beginFrame).run = .busy := rfl
@[simp] theorem State.beginFrame_done : (s.beginFrame).done = false := rfl
@[simp] theorem State.beginFrame_cg : (s.beginFrame).cg = s.cg := rfl
@[simp] theorem State.beginFrame_sb : (s.beginFrame).sb = s.sb := rfl
@[simp] theorem State.beginFrame_ca : (s.beginFrame).ca = s.ca := rfl
@[simp] theorem State.beginFrame_fb : (s.beginFrame).fb = s.fb := rfl
@[simp] theorem State.beginFrame_pix : (s.beginFrame).pix = PixelLatch.empty := rfl
@[simp] theorem State.beginFrame_resets : (s.beginFrame).resets = s.resets := rfl
@[simp] theorem State.beginFrame_rd : (s.beginFrame).rd = s.rd := rfl
@[simp] theorem State.beginFrame_got : (s.beginFrame).got = s.got := rfl
@[simp] theorem State.beginFrame_turns : (s.beginFrame).turns = s.turns := rfl
@[simp] theorem State.beginFrame_platform : (s.beginFrame).platform = s.platform := rfl

/-! ### endPixel: everything but pc, RUN, DONE and the pixel in progress stays. -/

@[simp] theorem State.endPixel_x : s.endPixel.x = s.x := by
  unfold State.endPixel; split <;> rfl

@[simp] theorem State.endPixel_p : s.endPixel.p = s.p := by
  unfold State.endPixel; split <;> rfl

@[simp] theorem State.endPixel_pw : s.endPixel.pw = s.pw := by
  unfold State.endPixel; split <;> rfl

@[simp] theorem State.endPixel_cg : s.endPixel.cg = s.cg := by
  unfold State.endPixel; split <;> rfl

@[simp] theorem State.endPixel_sb : s.endPixel.sb = s.sb := by
  unfold State.endPixel; split <;> rfl

@[simp] theorem State.endPixel_ca : s.endPixel.ca = s.ca := by
  unfold State.endPixel; split <;> rfl

@[simp] theorem State.endPixel_fb : s.endPixel.fb = s.fb := by
  unfold State.endPixel; split <;> rfl

@[simp] theorem State.endPixel_resets : s.endPixel.resets = s.resets := by
  unfold State.endPixel; split <;> rfl

@[simp] theorem State.endPixel_pix : s.endPixel.pix = PixelLatch.empty := by
  unfold State.endPixel; split <;> rfl

@[simp] theorem State.endPixel_rd : s.endPixel.rd = s.rd := by
  unfold State.endPixel; split <;> rfl

@[simp] theorem State.endPixel_got : s.endPixel.got = s.got := by
  unfold State.endPixel; split <;> rfl

@[simp] theorem State.endPixel_turns : s.endPixel.turns = s.turns := by
  unfold State.endPixel; split <;> rfl

@[simp] theorem State.endPixel_platform : s.endPixel.platform = s.platform := by
  unfold State.endPixel; split <;> rfl

/-- Before the last pixel of a frame, pc advances and the flags stay. -/
theorem State.endPixel_of_lt (h : s.pc.val + 1 < Config.npix) :
    s.endPixel = (s.setRaster ⟨s.pc.val + 1, h⟩ s.run s.done).setPix PixelLatch.empty := by
  unfold State.endPixel; rw [dif_pos h]

/-- After the last pixel, pc is 0, RUN is IDLE and DONE is 1. -/
theorem State.endPixel_of_last (h : ¬ s.pc.val + 1 < Config.npix) :
    s.endPixel = (s.setRaster ⟨0, by decide⟩ .idle true).setPix PixelLatch.empty := by
  unfold State.endPixel; rw [dif_neg h]

/-! ### resetBlock -/

@[simp] theorem State.resetBlock_turns : s.resetBlock.turns = s.turns := rfl
@[simp] theorem State.resetBlock_platform : s.resetBlock.platform = s.platform := rfl
@[simp] theorem State.resetBlock_resets : s.resetBlock.resets = s.resets + 1 := rfl
@[simp] theorem State.resetBlock_pw : s.resetBlock.pw = ⟨false, false, false, false, false⟩ := rfl
@[simp] theorem State.resetBlock_x : s.resetBlock.x = DisplayRegs.atReset (s.resets + 1) .active := rfl
@[simp] theorem State.resetBlock_p : s.resetBlock.p = DisplayRegs.atReset (s.resets + 1) .pending := rfl
@[simp] theorem State.resetBlock_run : s.resetBlock.run = .idle := rfl
@[simp] theorem State.resetBlock_done : s.resetBlock.done = false := rfl
@[simp] theorem State.resetBlock_pc : s.resetBlock.pc = ⟨0, by decide⟩ := rfl
@[simp] theorem State.resetBlock_pix : s.resetBlock.pix = PixelLatch.empty := rfl
@[simp] theorem State.resetBlock_cg : s.resetBlock.cg = [] := rfl
@[simp] theorem State.resetBlock_sb : s.resetBlock.sb = [] := rfl
@[simp] theorem State.resetBlock_ca : s.resetBlock.ca = [] := rfl
@[simp] theorem State.resetBlock_fb : s.resetBlock.fb = [] := rfl

end Sys2Proof.Machine
end

