-- ==== Sys2Proof/Laws/Operands.lean ====
section
/-! SUPPORT. What the operand assembly gives, as facts about numbers, and what the pixel function reads. -/

namespace Sys2Proof.Machine

/-- The raster position is below 104448 (10_state.md R25). -/
theorem State.pc_lt (s : State) : s.pc.val < 104448 := s.pc.isLt

theorem coordX_lt (pc : Fin Config.npix) : coordX pc < 384 := Nat.mod_lt _ (by decide)

theorem coordY_lt (pc : Fin Config.npix) : coordY pc < 272 := by
  have : pc.val < 104448 := pc.isLt
  simp only [coordY, Config.outW]; omega

/-- pc = Y x 384 + X (10_state.md R25). -/
theorem coordY_mul_add_coordX (pc : Fin Config.npix) : coordY pc * 384 + coordX pc = pc.val := by
  simp only [coordY, coordX, Config.outW]; omega

theorem insideVisible_iff (lx ly : Int) :
    insideVisible lx ly = true ↔ 0 ≤ lx ∧ lx < 320 ∧ 0 ≤ ly ∧ ly < 200 := by
  simp [insideVisible, and_assoc]

theorem insideVisible_logical (x y : Nat) :
    insideVisible (logicalX x) (logicalY y) = true ↔ 32 ≤ x ∧ x < 352 ∧ 36 ≤ y ∧ y < 236 := by
  rw [insideVisible_iff]; simp only [logicalX, logicalY, Config.borderL, Config.borderT]; omega

theorem borderBit_eq_zero_iff (lx ly : Int) : borderBit lx ly = 0#1 ↔ insideVisible lx ly = true := by
  unfold borderBit; split <;> simp_all

theorem glyphAddr_toNat (g : Byte) (wr : BitVec 3) : (glyphAddr g wr).toNat = g.toNat * 8 + wr.toNat := by
  simp only [glyphAddr, Config.tileEdge, BitVec.toNat_ofNat]; omega

theorem tileIndex_toNat {row : BitVec 5} {col : BitVec 6} (h : row.toNat < 25) (h' : col.toNat < 40) :
    (tileIndex row col).toNat = row.toNat * 40 + col.toNat := by
  simp only [tileIndex, Config.cols, BitVec.toNat_ofNat]; omega

/-- The tile split of a visible coordinate, as numbers (41_tile_fetch.md R120). -/
theorem tileSplit_toNat {lx ly : Int} (h : insideVisible lx ly = true) :
    (tileSplit lx ly).col.toNat = lx.toNat / 8 ∧ (tileSplit lx ly).row.toNat = ly.toNat / 8 ∧
    (tileSplit lx ly).wc.toNat = lx.toNat % 8 ∧ (tileSplit lx ly).wr.toNat = ly.toNat % 8 ∧
    (tileSplit lx ly).index.toNat = ly.toNat / 8 * 40 + lx.toNat / 8 := by
  obtain ⟨h1, h2, h3, h4⟩ := (insideVisible_iff lx ly).1 h
  have hc : (tileSplit lx ly).col.toNat = lx.toNat / 8 := by
    simp only [tileSplit, Config.tileEdge, BitVec.toNat_ofNat]; omega
  have hr : (tileSplit lx ly).row.toNat = ly.toNat / 8 := by
    simp only [tileSplit, Config.tileEdge, BitVec.toNat_ofNat]; omega
  refine ⟨hc, hr, ?_, ?_, ?_⟩
  · simp only [tileSplit, Config.tileEdge, BitVec.toNat_ofNat]; omega
  · simp only [tileSplit, Config.tileEdge, BitVec.toNat_ofNat]; omega
  · show (tileIndex (tileSplit lx ly).row (tileSplit lx ly).col).toNat = _
    rw [tileIndex_toNat (by omega) (by omega), hc, hr]

/-- The pixel function reads the active registers, the three input memories and the configuration, and
nothing else (43_color_select.md R160). -/
theorem pixelIndex_congr {s t : State} (hx : t.x = s.x) (hcg : t.cg = s.cg) (hsb : t.sb = s.sb) (hca : t.ca = s.ca)
    (hr : t.resets = s.resets) (hp : t.platform = s.platform) (x y : Nat) : pixelIndex t x y = pixelIndex s x y := by
  unfold pixelIndex readSB readCG readCA State.byteIn; rw [hx, hcg, hsb, hca, hr, hp]

/-- All the pixel function can answer at a visible pixel (43_color_select.md R159): the colour its class selects from the
three bytes of its tile, or the stop of an attribute byte the platform refuses. -/
theorem pixelIndex_visible {s : State} {x y : Nat} (h : insideVisible (logicalX x) (logicalY y) = true) :
    pixelIndex s x y =
      let t := tileSplit (logicalX x) (logicalY y)
      let b := readCG s (glyphAddr (s.byteIn .sb s.sb t.index.toNat) t.wr)
      (attrForeground s.platform.attrHi (readCA s t.index)).map fun fg =>
        if s.x.mode = 0#1 then hiresSource s.x fg (unpackHires b t.wc) else multiSource s.x fg (unpackMulti b t.wc) := by
  have hin : (tileSplit (logicalX x) (logicalY y)).index.toNat < Config.sbSize := by
    rw [(tileSplit_toNat h).2.2.2.2]
    have := (insideVisible_iff _ _).1 h
    show _ < 1000
    omega
  have hsb : readSB s (tileSplit (logicalX x) (logicalY y)).index =
      .ok (s.byteIn .sb s.sb (tileSplit (logicalX x) (logicalY y)).index.toNat) := by rw [readSB, if_pos hin]
  simp only [pixelIndex, h, if_true, hsb, bind, Except.bind, Except.map]

end Sys2Proof.Machine
end

