-- ==== Sys2Proof/Laws/Ops.lean ====
section
/-! SUPPORT. What the shared operations can do: outcomes, stage conditions, memory reads, and for every meaning what it answers when
it answers a next state. -/

namespace Sys2Proof.Machine

/-! ### Outcomes -/

@[simp] theorem withValue_ok {α : Type} (v : α) (k : α → Answer) : withValue (.ok v) k = k v := rfl

@[simp] theorem withValue_error {α : Type} (e : Stop) (k : α → Answer) : withValue (.error e) k = e.answer := rfl

@[simp] theorem mapNext_next (s : State) (f : State → State) : mapNext (.next s) f = .next (f s) := rfl
@[simp] theorem mapNext_fault (r : Fault) (f : State → State) : mapNext (.fault r) f = .fault r := rfl
@[simp] theorem mapNext_refused (r : Refusal) (f : State → State) : mapNext (.refused r) f = .refused r := rfl

/-- A stop is no next state. -/
theorem Stop.answer_ne_next (e : Stop) (t : State) : e.answer ≠ .next t := by cases e <;> exact fun h => nomatch h

/-- Where `withValue` answers a next state, the value was there and the continuation answered it. -/
theorem withValue_next {α : Type} {e : Except Stop α} {k : α → Answer} {t : State} (h : withValue e k = .next t) :
    ∃ v, e = .ok v ∧ k v = .next t := by
  cases e with
  | ok v => exact ⟨v, rfl, h⟩
  | error e => exact absurd h (e.answer_ne_next t)

/-- Where `mapNext` answers a next state, it is the image of one. -/
theorem mapNext_next_iff {o : Answer} {f : State → State} {t : State} (h : mapNext o f = .next t) :
    ∃ u, o = .next u ∧ t = f u := by
  cases o with
  | next u => exact ⟨u, rfl, by simpa using h.symm⟩
  | fault r => exact nomatch h
  | refused r => exact nomatch h

/-! ### Stage and class conditions -/

/-- A one-bit word is 0 or 1. -/
theorem bit_cases (b : BitVec 1) : b = 0#1 ∨ b = 1#1 := by revert b; decide

/-- STAGE `0-`: the pixel is visible. -/
@[simp] theorem stageMatches_visible (s : State) : s.stageMatches 0b00#2 0b10#2 = decide (s.pix.inb = 0#1) := by
  unfold State.stageMatches State.stageWord
  generalize s.pix.inb = i; generalize s.x.mode = m
  revert i m; decide

/-- STAGE `00`: visible and hires. -/
@[simp] theorem stageMatches_hires (s : State) :
    s.stageMatches 0b00#2 0b11#2 = decide (s.pix.inb = 0#1 ∧ s.x.mode = 0#1) := by
  unfold State.stageMatches State.stageWord
  generalize s.pix.inb = i; generalize s.x.mode = m
  revert i m; decide

/-- STAGE `01`: visible and multicolor. -/
@[simp] theorem stageMatches_multi (s : State) :
    s.stageMatches 0b01#2 0b11#2 = decide (s.pix.inb = 0#1 ∧ s.x.mode = 1#1) := by
  unfold State.stageMatches State.stageWord
  generalize s.pix.inb = i; generalize s.x.mode = m
  revert i m; decide

/-! ### Memory reads -/

/-- A written byte reads as it was written. -/
theorem State.byteIn_of_some {s : State} {m : List Host.Cell} {a : Nat} {b : Byte} (space : Config.InputSpace)
    (h : memRead m a = some b) : s.byteIn space m a = b := by
  simp [State.byteIn, h]

/-- An unwritten byte reads as its free value. -/
theorem State.byteIn_of_none {s : State} {m : List Host.Cell} {a : Nat} (space : Config.InputSpace)
    (h : memRead m a = none) : s.byteIn space m a = Config.unwrittenByte s.resets space a := by
  simp [State.byteIn, h]

/-- A written cell of FB holds its record. -/
theorem State.recordIn_of_some {s : State} {a : Nat} {r : PixelRecord} (h : memRead s.fb a = some r) :
    s.recordIn a = r := by
  simp [State.recordIn, h]

/-- An unwritten cell of FB holds its free value. -/
theorem State.recordIn_of_none {s : State} {a : Nat} (h : memRead s.fb a = none) :
    s.recordIn a = Config.unwrittenRecord s.resets a := by
  simp [State.recordIn, h]

/-- A screen-buffer read is the byte SB holds, at an address that exists. -/
theorem readSB_ok_iff {s : State} {a : BitVec 10} {b : Byte} :
    readSB s a = .ok b ↔ a.toNat < Config.sbSize ∧ s.byteIn .sb s.sb a.toNat = b := by
  unfold readSB; split <;> simp_all

/-! ### What each meaning answers when it answers a next state -/

section
variable {s t : State}

theorem execTile_next (h : execTile s = .next t) :
    (s.pix.inb = 0#1 ∧ insideVisible s.pix.lx s.pix.ly = true ∧
      t = s.setPix { s.pix with tile := tileSplit s.pix.lx s.pix.ly }) ∨ (s.pix.inb ≠ 0#1 ∧ t = s) := by
  unfold execTile at h
  grind [stageMatches_visible]

theorem execScode_next (h : execScode s = .next t) :
    (s.pix.inb = 0#1 ∧ ∃ g, readSB s s.pix.tile.index = .ok g ∧ t = s.setPix { s.pix with g := g }) ∨
      (s.pix.inb ≠ 0#1 ∧ t = s) := by
  unfold execScode at h
  split at h
  · next hc =>
    obtain ⟨g, hg, ht⟩ := withValue_next h
    exact .inl ⟨by simpa using hc, g, hg, by simpa using ht.symm⟩
  · next hc => exact .inr ⟨by simpa using hc, by simpa using h.symm⟩

theorem execGrow_next (h : execGrow s = .next t) :
    (s.pix.inb = 0#1 ∧ t = s.setPix { s.pix with b := readCG s (glyphAddr s.pix.g s.pix.tile.wr) }) ∨
      (s.pix.inb ≠ 0#1 ∧ t = s) := by
  unfold execGrow at h
  grind [stageMatches_visible]

theorem execAttr_next (h : execAttr s = .next t) :
    (s.pix.inb = 0#1 ∧ ∃ fg, attrForeground s.platform.attrHi (readCA s s.pix.tile.index) = .ok fg ∧
      t = s.setPix { s.pix with a := readCA s s.pix.tile.index, fg := fg }) ∨ (s.pix.inb ≠ 0#1 ∧ t = s) := by
  unfold execAttr at h
  split at h
  · next hc =>
    obtain ⟨fg, hf, ht⟩ := withValue_next h
    exact .inl ⟨by simpa using hc, fg, hf, by simpa using ht.symm⟩
  · next hc => exact .inr ⟨by simpa using hc, by simpa using h.symm⟩

theorem execUnpackH_next (h : execUnpackH s = .next t) :
    (s.pix.inb = 0#1 ∧ s.x.mode = 0#1 ∧ t = s.setPix { s.pix with v := unpackHires s.pix.b s.pix.tile.wc }) ∨
      (¬ (s.pix.inb = 0#1 ∧ s.x.mode = 0#1) ∧ t = s) := by
  unfold execUnpackH at h
  grind [stageMatches_hires]

theorem execUnpackM_next (h : execUnpackM s = .next t) :
    (s.pix.inb = 0#1 ∧ s.x.mode = 1#1 ∧ t = s.setPix { s.pix with v := unpackMulti s.pix.b s.pix.tile.wc }) ∨
      (¬ (s.pix.inb = 0#1 ∧ s.x.mode = 1#1) ∧ t = s) := by
  unfold execUnpackM at h
  grind [stageMatches_multi]

theorem classOp_next {bits mask : BitVec 4} {c : Color} (h : classOp bits mask c s = .next t) :
    (s.selMatches bits mask = true ∧ t = s.setPix { s.pix with idx := c }) ∨ (s.selMatches bits mask = false ∧ t = s) := by
  unfold classOp at h
  split at h
  · next hc => exact .inl ⟨hc, by simpa using h.symm⟩
  · next hc => exact .inr ⟨by simpa using hc, by simpa using h.symm⟩

theorem execStart_next (h : execStart s = .next t) :
    (s.run = .busy ∧ t = s) ∨ (s.run = .idle ∧ t = s.beginFrame) := by
  unfold execStart at h
  split at h
  · next hc => exact .inl ⟨hc, by simpa using h.symm⟩
  · next hc => exact .inr ⟨hc, by simpa using h.symm⟩

theorem execRd_next {a : BitVec 3} (h : execRd a s = .next t) : t = s.setRd (readSlot s a) := by
  simpa [execRd] using h.symm

/-- A pixel drawn is one record written to its cell. -/
theorem drawAt_ok {pos : Fin Config.npix} (h : drawAt s pos = .ok t) :
    ∃ c, pixelIndex s (coordX pos) (coordY pos) = .ok c ∧ t = s.writeFB pos (recordOf c) := by
  unfold drawAt pixelRecord at h
  cases hp : pixelIndex s (coordX pos) (coordY pos) with
  | error e => simp [hp, Except.map] at h
  | ok c => exact ⟨c, rfl, by simpa [hp, Except.map] using h.symm⟩

theorem execStep_next (h : execStep s = .next t) :
    (s.run = .idle ∧ t = s) ∨
    (s.run = .busy ∧ ∃ c, pixelIndex s (coordX s.pc) (coordY s.pc) = .ok c ∧
      t = (s.writeFB s.pc (recordOf c)).endPixel) := by
  unfold execStep at h
  split at h
  · next hc => exact .inl ⟨hc, by simpa using h.symm⟩
  · next hc =>
    obtain ⟨u, hu, ht⟩ := withValue_next h
    obtain ⟨c, hp, rfl⟩ := drawAt_ok hu
    exact .inr ⟨hc, c, hp, by simpa using ht.symm⟩

end

/-! ### The host's accesses and the step -/

/-- While IDLE the host's accesses go through. -/
theorem whenIdle_of_idle {s : State} (h : s.run = .idle) (k : Answer) : whenIdle s k = k := by
  unfold whenIdle; split <;> simp_all

/-- While BUSY they are refused. -/
theorem whenIdle_of_busy {s : State} (h : s.run = .busy) (k : Answer) : whenIdle s k = .refused .hostAccessDuringFrame := by
  unfold whenIdle; split <;> simp_all

/-- Every access of the host that goes through: its effect on the state. -/
theorem hostAccess_next {m : HostAccess} {s t : State} (h : hostAccess m s = .next t) :
    (∃ a b, m = .setCG a b ∧ s.run = .idle ∧ t = s.writeCG a b) ∨
    (∃ a b, m = .setSB a b ∧ s.run = .idle ∧ a.toNat < Config.sbSize ∧ t = s.writeSB a b) ∨
    (∃ a b, m = .setCA a b ∧ s.run = .idle ∧ t = s.writeCA a b) ∨
    (∃ a, m = .getFB a ∧ s.run = .idle ∧ a.toNat < Config.npix ∧ t = s.setGot (s.recordIn a.toNat)) ∨
    (m = .reset ∧ t = s.resetBlock) := by
  cases m <;> simp only [hostAccess, whenIdle] at h
  all_goals grind

/-- One step: the platform is well-formed, and the move at the head of the turns was made. -/
theorem step_next {s t : State} (h : step s = .next t) :
    s.platform.wellFormed = true ∧
    ((s.turns = [] ∧ exec .step s = .next t) ∨
     (∃ rest, s.turns = .raster :: rest ∧ exec .step (s.setTurns rest) = .next t) ∨
     (∃ rest, s.turns = .stage :: rest ∧ stageTurn exec (s.setTurns rest) = .next t) ∨
     (∃ w rest, s.turns = .command w :: rest ∧ exec (decodeHc w) (s.setTurns rest) = .next t) ∨
     (∃ m rest, s.turns = .access m :: rest ∧ hostAccess m (s.setTurns rest) = .next t)) := by
  unfold step at h
  split at h
  · next hw =>
    refine ⟨hw, ?_⟩
    split at h
    · next ht => exact .inl ⟨ht, h⟩
    · next rest ht => exact .inr (.inl ⟨rest, ht, h⟩)
    · next rest ht => exact .inr (.inr (.inl ⟨rest, ht, h⟩))
    · next w rest ht => exact .inr (.inr (.inr (.inl ⟨w, rest, ht, h⟩)))
    · next m rest ht => exact .inr (.inr (.inr (.inr ⟨m, rest, ht, h⟩)))
  · exact nomatch h

/-- While BUSY, a stage whose word decodes runs, and what follows the stage comes after it. -/
theorem stageTurn_of_ok {run : Instr → State → Answer} {s : State} {i : Instr} (hr : s.run = .busy)
    (hd : decode s.stageCode = .ok i) : stageTurn run s = mapNext (run i s) State.afterStage := by
  unfold stageTurn; split <;> grind

/-- While BUSY, a stage whose condition fails is passed over. -/
theorem stageTurn_of_skip {run : Instr → State → Answer} {s : State} (hr : s.run = .busy)
    (hd : decode s.stageCode = .error .stageSkipped) : stageTurn run s = .next s.afterStage := by
  unfold stageTurn; split <;> grind

/-- While BUSY, a reserved selector word is refused. -/
theorem stageTurn_of_reserved {run : Instr → State → Answer} {s : State} (hr : s.run = .busy)
    (hd : decode s.stageCode = .error .reservedSelector) : stageTurn run s = .refused .reservedSelector := by
  unfold stageTurn; split <;> grind

/-- A stage of the rasterizer: nothing while IDLE; else the decoded stage with what follows it, or a skipped stage. -/
theorem stageTurn_next {run : Instr → State → Answer} {s t : State} (h : stageTurn run s = .next t) :
    (s.run = .idle ∧ t = s) ∨
    (s.run = .busy ∧ ∃ i u, decode s.stageCode = .ok i ∧ run i s = .next u ∧ t = u.afterStage) ∨
    (s.run = .busy ∧ (decode s.stageCode = .error .stageSkipped ∨ decode s.stageCode = .error .notAStage) ∧
      t = s.afterStage) := by
  unfold stageTurn at h
  split at h
  · next hr => exact .inl ⟨hr, by simpa using h.symm⟩
  · next hr =>
    split at h
    · next i hd =>
      obtain ⟨u, hu, ht⟩ := mapNext_next_iff h
      exact .inr (.inl ⟨hr, i, u, hd, hu, ht⟩)
    · exact nomatch h
    · next hd => exact .inr (.inr ⟨hr, .inl hd, by simpa using h.symm⟩)
    · next hd => exact .inr (.inr ⟨hr, .inr hd, by simpa using h.symm⟩)

end Sys2Proof.Machine
end

