-- ==== Sys2Proof/Laws/PerInstr.lean ====
section
/-! SUPPORT. Per-instruction laws: the encoding of an instruction is in the format of its opcode-table row and matches the row's
pattern (30_encoding.md R87, R88, R90). -/

namespace Sys2Proof.Laws.TablePattern

/-- The encoding of a well-formed instruction is a word of its row. -/
def Statement (i : Instr) : Prop :=
  i.wellFormed = true → (encode i).format = i.tableRow.format ∧ i.tableRow.accepts (encode i).word = true

theorem lcoord : Statement .lcoord := fun _ => by decide
theorem border : Statement .border := fun _ => by decide
theorem tile : Statement .tile := fun _ => by decide
theorem scode : Statement .scode := fun _ => by decide
theorem grow : Statement .grow := fun _ => by decide
theorem attr : Statement .attr := fun _ => by decide
theorem unpackH : Statement .unpackH := fun _ => by decide
theorem unpackM : Statement .unpackM := fun _ => by decide
theorem pal : Statement .pal := fun _ => by decide
theorem pxBorder : Statement .pxBorder := fun _ => by decide
theorem pxHbg : Statement .pxHbg := fun _ => by decide
theorem pxHfg : Statement .pxHfg := fun _ => by decide
theorem pxMbg0 : Statement .pxMbg0 := fun _ => by decide
theorem pxMbg1 : Statement .pxMbg1 := fun _ => by decide
theorem pxMbg2 : Statement .pxMbg2 := fun _ => by decide
theorem pxMfg : Statement .pxMfg := fun _ => by decide
theorem wrBorder (c : Color) : Statement (.wrBorder c) := fun _ => by revert c; decide
theorem wrBg0 (c : Color) : Statement (.wrBg0 c) := fun _ => by revert c; decide
theorem wrBg1 (c : Color) : Statement (.wrBg1 c) := fun _ => by revert c; decide
theorem wrBg2 (c : Color) : Statement (.wrBg2 c) := fun _ => by revert c; decide
theorem wrMode (ign : BitVec 3) (m : BitVec 1) : Statement (.wrMode ign m) := fun _ => by revert ign m; decide
theorem start (ign : BitVec 3) : Statement (.start ign) := fun _ => by revert ign; decide
theorem ctrlNop (ign : BitVec 3) : Statement (.ctrlNop ign) := fun _ => by revert ign; decide
theorem wrRsvd (a : BitVec 3) (d : BitVec 4) : Statement (.wrRsvd a d) := by
  unfold Statement; revert a d; decide
theorem rd (a : BitVec 3) (ign : BitVec 4) : Statement (.rd a ign) := by
  unfold Statement; revert a ign; decide
theorem step : Statement .step := fun _ => by decide

end Sys2Proof.Laws.TablePattern
end

