-- ==== Sys2Proof/Laws/Run.lean ====
section
/-! SUPPORT. Runs of several steps: how `Host.Core.run` of this machine unfolds, in the machine's own names. -/

namespace Sys2Proof.Machine

/-- No step. -/
theorem run_zero (s : State) : Host.Core.run Sys2Proof.core 0 s = .next s := rfl

/-- A run whose first step answers a next state goes on from there. -/
theorem run_succ_of_next (n : Nat) {s t : Sys2Proof.core.State} (h : Sys2Proof.core.step s = .next t) :
    Host.Core.run Sys2Proof.core (n + 1) s = Host.Core.run Sys2Proof.core n t := by
  simp only [Host.Core.run, h]

/-- A run whose first step faults is that fault. -/
theorem run_succ_of_fault (n : Nat) {s : Sys2Proof.core.State} {r : Sys2Proof.core.Fault}
    (h : Sys2Proof.core.step s = .fault r) : Host.Core.run Sys2Proof.core (n + 1) s = .fault r := by
  simp only [Host.Core.run, h]

/-- A run whose first step is refused is that refusal. -/
theorem run_succ_of_refused (n : Nat) {s : Sys2Proof.core.State} {r : Sys2Proof.core.Refusal}
    (h : Sys2Proof.core.step s = .refused r) : Host.Core.run Sys2Proof.core (n + 1) s = .refused r := by
  simp only [Host.Core.run, h]

/-- One step, in the machine's own names. -/
theorem run_one_of_step {s t : State} (h : step s = .next t) : Host.Core.run Sys2Proof.core 1 s = .next t :=
  run_succ_of_next 0 (s := s) (t := t) h

/-- A run of `a + b` steps is a run of `b` steps from where `a` steps lead. -/
theorem run_add (b : Nat) : ∀ (a : Nat) (s t : Sys2Proof.core.State), Host.Core.run Sys2Proof.core a s = .next t →
    Host.Core.run Sys2Proof.core (a + b) s = Host.Core.run Sys2Proof.core b t
  | 0, s, t, h => by
    simp only [Host.Core.run] at h
    cases h
    rw [Nat.zero_add]
  | a + 1, s, t, h => by
    rw [Nat.add_right_comm]
    unfold Host.Core.run at h
    rw [Host.Core.run]
    generalize Sys2Proof.core.step s = o at h
    cases o with
    | next u => exact run_add b a _ _ h
    | fault r => exact nomatch h
    | refused r => exact nomatch h

end Sys2Proof.Machine
end

