-- ==== Sys2Proof/Tests/Slice0.lean ====
section
/-! SUPPORT. The tests: ill-formed terms, words written out from the spec's encodings, vectors of 95_test_vectors.md, and for every
statement with hypotheses a state and operands that meet them. -/

namespace Sys2Proof.Tests

open Sys2Proof.Machine Sys2Proof.Safety

/-! ### Small states -/

/-- The registers of 95_test_vectors.md V4, (BORDER, BG0, BG1, BG2) = (14, 6, 2, 5), in mode m. -/
def regs (m : BitVec 1) : DisplayRegs := ⟨14, 6, 2, 5, m⟩

/-- A host at rest with a few bytes written: tile 48 shows glyph 1, whose line 6 is 0x1B, with attribute 0x0E; tile 999
shows glyph 255, whose line 7 is 0x81, with attribute 0xF7. -/
def idleState (m : BitVec 1) : State :=
  { State.reset with
    x := regs m
    p := regs m
    pw := ⟨true, true, true, true, true⟩
    sb := [(48, 0x01#8), (999, 0xFF#8)]
    cg := [(14, 0x1B#8), (2047, 0x81#8)]
    ca := [(48, 0x0E#8), (999, 0xF7#8)] }

/-- The same with a frame in progress at a raster position. -/
def busyState (m : BitVec 1) (pc : Fin Config.npix) : State := { idleState m with pc := pc, run := .busy }

/-- The pixel at (100, 50) of that frame in multicolor, after every stage but the last: tile 48, wc 4, wr 6, the byte
0x1B gives pair value 2, which is BG2 = 5. -/
def beforePal : State :=
  { busyState 1 19300 with
    pix :=
      { slot := .pal
        lx := 68
        ly := 14
        inb := 0
        tile := ⟨8, 1, 4, 6, 48⟩
        g := 0x01
        b := 0x1B
        a := 0x0E
        fg := 14
        v := 2
        idx := 5 }
    turns := [.stage] }

/-- A pixel in progress with a selector word `{inb, m, v}`, fg = 1 (V4). -/
def selState (inb m : BitVec 1) (v : BitVec 2) : State :=
  { busyState m 19300 with pix := { PixelLatch.empty with slot := .select, inb := inb, v := v, fg := 1 }, turns := [.stage] }

/-- A visible pixel of tile t in progress. -/
def visState (m : BitVec 1) (t : BitVec 10) (g : Byte) (wr wc : BitVec 3) (b : Byte) : State :=
  { busyState m 19300 with pix := { PixelLatch.empty with tile := ⟨0, 0, wc, wr, t⟩, g := g, b := b } }

/-- A host at rest that has written everything a frame reads: every tile shows glyph 1, every glyph line is 0x1B, every
attribute is 0x0E. -/
def fullState (m : BitVec 1) : State :=
  { idleState m with
    sb := rangeCells 1000 fun _ => 0x01#8
    cg := rangeCells 2048 fun _ => 0x1B#8
    ca := rangeCells 1000 fun _ => 0x0E#8 }

/-! ### Well-formedness: an ill-formed term for each check -/

theorem test_wrRsvd_slot5_illFormed : Instr.wellFormed (.wrRsvd 5 0) = false := by decide

theorem test_small_regions_illFormed :
    ({ platformAtReset with cgBytes := 4095 } : Config.Platform).wellFormed = false ∧
    ({ platformAtReset with sbBytes := 999 } : Config.Platform).wellFormed = false ∧
    ({ platformAtReset with caBytes := 1023 } : Config.Platform).wellFormed = false ∧
    platformAtReset.wellFormed = true := by decide

/-- An ill-formed platform is refused by the step (20_memory.md R66). -/
theorem test_small_region_refused :
    refusal? (step { State.reset with platform := { platformAtReset with cgBytes := 4095 } }) =
      some .illFormedConfiguration := by decide

/-! ### Decoding: words written out from 30_encoding.md R87, R88, R90 (vectors V4 and V6) -/

theorem test_decode_register_writes :
    decodeHc 0x80#8 = .wrBorder 0 ∧ decodeHc 0x8E#8 = .wrBorder 14 ∧ decodeHc 0x8F#8 = .wrBorder 15 ∧
    decodeHc 0x96#8 = .wrBg0 6 ∧ decodeHc 0xA2#8 = .wrBg1 2 ∧ decodeHc 0xB5#8 = .wrBg2 5 ∧
    decodeHc 0xC0#8 = .wrMode 0 0 ∧ decodeHc 0xC1#8 = .wrMode 0 1 ∧ decodeHc 0xCE#8 = .wrMode 7 0 ∧
    decodeHc 0xCF#8 = .wrMode 7 1 := by decide

theorem test_decode_control_and_reads :
    decodeHc 0xD1#8 = .start 0 ∧ decodeHc 0xDF#8 = .start 7 ∧ decodeHc 0xD0#8 = .ctrlNop 0 ∧
    decodeHc 0xDE#8 = .ctrlNop 7 ∧ decodeHc 0xE3#8 = .wrRsvd 6 3 ∧ decodeHc 0xFF#8 = .wrRsvd 7 15 ∧
    decodeHc 0x00#8 = .rd 0 0 ∧ decodeHc 0x4A#8 = .rd 4 10 ∧ decodeHc 0x50#8 = .rd 5 0 ∧
    decodeHc 0x60#8 = .rd 6 0 ∧ decodeHc 0x7F#8 = .rd 7 15 := by decide

theorem test_decode_selectors :
    decodeSel 0b1000#4 = .ok .pxBorder ∧ decodeSel 0b1100#4 = .ok .pxBorder ∧ decodeSel 0b1011#4 = .ok .pxBorder ∧
    decodeSel 0b1111#4 = .ok .pxBorder ∧ decodeSel 0b0000#4 = .ok .pxHbg ∧ decodeSel 0b0001#4 = .ok .pxHfg ∧
    decodeSel 0b0100#4 = .ok .pxMbg0 ∧ decodeSel 0b0101#4 = .ok .pxMbg1 ∧ decodeSel 0b0110#4 = .ok .pxMbg2 ∧
    decodeSel 0b0111#4 = .ok .pxMfg ∧ decodeSel 0b0010#4 = .error .reservedSelector ∧
    decodeSel 0b0011#4 = .error .reservedSelector := by decide

theorem test_decode_stages_of_border_pixel :
    decodeStage .lcoord 0b10#2 = .ok .lcoord ∧ decodeStage .border 0b11#2 = .ok .border ∧
    decodeStage .tile 0b10#2 = .error .stageSkipped ∧ decodeStage .scode 0b11#2 = .error .stageSkipped ∧
    decodeStage .grow 0b10#2 = .error .stageSkipped ∧ decodeStage .attr 0b11#2 = .error .stageSkipped ∧
    decodeStage .unpack 0b10#2 = .error .stageSkipped ∧ decodeStage .unpack 0b11#2 = .error .stageSkipped ∧
    decodeStage .pal 0b10#2 = .ok .pal := by decide

theorem test_decode_stages_of_visible_pixel :
    decodeStage .tile 0b00#2 = .ok .tile ∧ decodeStage .tile 0b01#2 = .ok .tile ∧ decodeStage .scode 0b01#2 = .ok .scode ∧
    decodeStage .grow 0b00#2 = .ok .grow ∧ decodeStage .attr 0b01#2 = .ok .attr ∧
    decodeStage .unpack 0b00#2 = .ok .unpackH ∧ decodeStage .unpack 0b01#2 = .ok .unpackM ∧
    decodeStage .pal 0b01#2 = .ok .pal := by decide

/-- The words of the opcode table that identify an operation. -/
theorem test_decodeTableWord :
    decodeTableWord 2 0b01 = some .unpackM ∧ decodeTableWord 4 0b0101 = some .pxMbg1 ∧
    decodeTableWord 8 0xB5 = some (.wrBg2 5) ∧ decodeTableWord 0 0 = some .step ∧ decodeTableWord 8 256 = none := by
  decide

/-! ### The border detector (V1) -/

theorem test_border_vectors :
    (logicalX 0, logicalY 0, borderBit (-32) (-36)) = ((-32 : Int), (-36 : Int), 1#1) ∧
    (logicalX 383, logicalY 271, borderBit 351 235) = ((351 : Int), (235 : Int), 1#1) ∧
    (logicalX 32, logicalY 36, borderBit 0 0) = ((0 : Int), (0 : Int), 0#1) ∧
    (logicalX 351, logicalY 235, borderBit 319 199) = ((319 : Int), (199 : Int), 0#1) ∧
    borderBit (-1) 0 = 1#1 ∧ borderBit 0 (-1) = 1#1 ∧ borderBit 320 199 = 1#1 ∧ borderBit 319 200 = 1#1 := by decide

/-- LCOORD at (100, 50). -/
theorem test_lcoord :
    (nextState? (exec .lcoord (busyState 0 19300))).map (fun t => (t.pix.lx, t.pix.ly)) = some (68, 14) := by decide

/-- BORDER at (68, 14) and at (320, 199). -/
theorem test_border :
    (nextState? (exec .border { busyState 0 0 with pix := { PixelLatch.empty with lx := 68, ly := 14, inb := 1 } })).map
      (fun t => t.pix.inb) = some 0#1 ∧
    (nextState? (exec .border { busyState 0 0 with pix := { PixelLatch.empty with lx := 320, ly := 199 } })).map
      (fun t => t.pix.inb) = some 1#1 := by decide

/-! ### Tile addressing and fetches (V2) -/

theorem test_tile_vectors :
    tileSplit 68 14 = ⟨8, 1, 4, 6, 48⟩ ∧ tileSplit 7 7 = ⟨0, 0, 7, 7, 0⟩ ∧ tileSplit 0 8 = ⟨0, 1, 0, 0, 40⟩ ∧
    tileSplit 319 0 = ⟨39, 0, 7, 0, 39⟩ ∧ tileSplit 319 199 = ⟨39, 24, 7, 7, 999⟩ ∧
    tileSplit 160 100 = ⟨20, 12, 0, 4, 500⟩ := by decide

theorem test_glyph_addresses :
    glyphAddr 0x01 7 = 15#12 ∧ glyphAddr 0x20 0 = 256#12 ∧ glyphAddr 0x80 0 = 1024#12 ∧ glyphAddr 0x01 6 = 14#12 ∧
    glyphAddr 0xFF 7 = 2047#12 ∧ glyphAddr 0x7F 4 = 1020#12 := by decide

theorem test_tile :
    (nextState? (exec .tile { busyState 0 0 with pix := { PixelLatch.empty with lx := 319, ly := 199 } })).map
      (fun t => t.pix.tile) = some ⟨39, 24, 7, 7, 999⟩ := by decide

theorem test_scode :
    (nextState? (exec .scode (visState 0 48 0 0 0 0))).map (fun t => t.pix.g) = some 0x01#8 := by decide

theorem test_grow :
    (nextState? (exec .grow (visState 0 48 0x01 6 0 0))).map (fun t => t.pix.b) = some 0x1B#8 := by decide

/-- ATTR: 0x0E gives 14; 0xF7 gives 7 under `mask` (R124). -/
theorem test_attr :
    (nextState? (exec .attr (visState 0 48 0 0 0 0))).map (fun t => t.pix.fg) = some 14#4 ∧
    (nextState? (exec .attr (visState 0 999 0 0 0 0))).map (fun t => (t.pix.a, t.pix.fg)) = some (0xF7#8, 7#4) := by decide

/-- Under `refuse` the byte 0xF7 is refused (V2). -/
theorem test_attr_refused :
    refusal? (exec .attr { visState 0 999 0 0 0 0 with platform := { platformAtReset with attrHi := .refuse } }) =
      some .attributeHighBits := by decide

/-! ### The unpacker (V3) -/

theorem test_hires_rows :
    rowHires 0x1B = [0, 0, 0, 1, 1, 0, 1, 1] ∧ rowHires 0x80 = [1, 0, 0, 0, 0, 0, 0, 0] ∧
    rowHires 0x66 = [0, 1, 1, 0, 0, 1, 1, 0] := by decide

theorem test_multicolor_rows :
    rowMulti 0x1B = [0, 0, 1, 1, 2, 2, 3, 3] ∧ rowMulti 0x40 = [1, 1, 0, 0, 0, 0, 0, 0] ∧
    rowMulti 0x81 = [2, 2, 0, 0, 0, 0, 1, 1] := by decide

theorem test_unpackH :
    (nextState? (exec .unpackH (visState 0 0 0 0 3 0x18))).map (fun t => t.pix.v) = some 1#2 ∧
    (nextState? (exec .unpackH (visState 0 0 0 0 7 0x01))).map (fun t => t.pix.v) = some 1#2 := by decide

theorem test_unpackM :
    (nextState? (exec .unpackM (visState 1 0 0 0 4 0x1B))).map (fun t => t.pix.v) = some 2#2 ∧
    (nextState? (exec .unpackM (visState 1 0 0 0 7 0x1B))).map (fun t => t.pix.v) = some 3#2 := by decide

/-! ### Selector and colour source (V4), palette stage (V5) -/

/-- One selection stage of the pipeline, for the eight rows of V4. -/
theorem test_selection_stage :
    [selState 1 0 0, selState 1 1 0, selState 0 0 0, selState 0 0 1, selState 0 1 0, selState 0 1 1, selState 0 1 2,
      selState 0 1 3].map (fun s => (nextState? (step s)).map fun t => (t.pix.idx, t.pix.slot)) =
    [some (14, .pal), some (14, .pal), some (6, .pal), some (1, .pal), some (6, .pal), some (2, .pal), some (5, .pal),
      some (1, .pal)] := by decide

/-- A selector word the hardware never assembles is refused (30_encoding.md R91). -/
theorem test_reserved_selector : refusal? (step (selState 0 0 2)) = some .reservedSelector := by decide

/-- PAL at (32, 36), idx 6: cell 13856, fully opaque. -/
theorem test_pal :
    (nextState? (exec .pal { busyState 0 13856 with pix := { PixelLatch.empty with idx := 6 } })).map
      (fun t => (memRead t.fb 13856).map fun r => (r.idx, r.a)) = some (some (6#4, 0xFF#8)) := by decide

/-! ### Host commands (V6) -/

theorem test_register_writes :
    (nextState? (exec (.wrBorder 15) (busyState 0 0))).map (fun t => (t.p.border, t.x.border)) = some (15#4, 14#4) ∧
    (nextState? (exec (.wrBg0 1) (busyState 0 0))).map (fun t => t.p) = some ⟨14, 1, 2, 5, 0⟩ ∧
    (nextState? (exec (.wrBg1 1) (busyState 0 0))).map (fun t => t.p) = some ⟨14, 6, 1, 5, 0⟩ ∧
    (nextState? (exec (.wrBg2 1) (busyState 0 0))).map (fun t => t.p) = some ⟨14, 6, 2, 1, 0⟩ ∧
    (nextState? (exec (.wrMode 7 1) (busyState 0 0))).map (fun t => t.p) = some ⟨14, 6, 2, 5, 1⟩ := by decide

/-- START from IDLE latches all five registers and clears DONE. -/
theorem test_start :
    (nextState? (exec (.start 7) { idleState 0 with p := ⟨1, 2, 3, 4, 1⟩, done := true })).map
      (fun t => (t.x, t.run, t.done, t.pc.val)) = some (⟨1, 2, 3, 4, 1⟩, .busy, false, 0) := by decide

/-- START while BUSY changes nothing. -/
theorem test_start_busy :
    (nextState? (exec (.start 0) { busyState 0 384 with p := ⟨1, 2, 3, 4, 1⟩ })) =
      some { busyState 0 384 with p := ⟨1, 2, 3, 4, 1⟩ } := by decide

theorem test_no_effect_commands :
    nextState? (exec (.ctrlNop 0) (busyState 0 384)) = some (busyState 0 384) ∧
    nextState? (exec (.wrRsvd 6 3) (busyState 0 384)) = some (busyState 0 384) := by decide

/-- RD of every slot, BUSY, in multicolor (R174). -/
theorem test_reads :
    [0, 1, 2, 3, 4, 5, 6, 7].map (fun a => (nextState? (exec (.rd a 10) (busyState 1 0))).map fun t => t.rd) =
      [some 14, some 6, some 2, some 5, some 1, some 0, some 1, some 0] := by decide

/-- STATUS after a completed frame is 0b0010. -/
theorem test_status_done : { idleState 0 with done := true }.statusWord = 0b0010#4 := by decide

/-! ### Raster steps (V7) -/

/-- Border pixels at the end of a line and before the visible area. -/
theorem test_step_border :
    (nextState? (exec .step (busyState 1 383))).map (fun t => (t.pc.val, t.run, (memRead t.fb 383).map fun r => r.idx)) =
      some (384, .busy, some 14#4) ∧
    (nextState? (exec .step (busyState 1 13855))).map (fun t => (memRead t.fb 13855).map fun r => r.idx) =
      some (some 14#4) := by decide

/-- The pixel at (100, 50), the last visible pixel, and the last step of a frame. -/
theorem test_step_visible :
    (nextState? (exec .step (busyState 1 19300))).map (fun t => (memRead t.fb 19300).map fun r => r.idx) =
      some (some 5#4) ∧
    (nextState? (exec .step (busyState 0 90591))).map (fun t => (memRead t.fb 90591).map fun r => r.idx) =
      some (some 7#4) ∧
    (nextState? (exec .step (busyState 0 104447))).map (fun t => (t.pc.val, t.run, t.done)) =
      some (0, .idle, true) := by decide

/-! ### Host accesses -/

theorem test_host_write_and_read :
    (nextState? (hostAccess (.setSB 47 9) (idleState 0))).map (fun t => t.sb) =
      some [(47, 0x09#8), (48, 0x01#8), (999, 0xFF#8)] ∧
    (nextState? (hostAccess (.getFB 7) { idleState 0 with fb := [(7, recordOf 14)] })).map (fun t => t.got.map fun r => r.idx) =
      some (some 14#4) ∧
    refusal? (hostAccess (.setCG 0 0) (busyState 0 0)) = some .hostAccessDuringFrame := by decide

/-- Reset in the middle of a frame: nothing counts as written, and the bytes of the next life are free anew. -/
theorem test_reset_access :
    (nextState? (step { busyState 1 384 with turns := [.access .reset] })).map
      (fun t => (t.pw, t.cg, t.run, t.pc.val, t.resets)) =
      some (⟨false, false, false, false, false⟩, [], .idle, 0, 1) := by decide

/-! ### Witnesses: for every statement with hypotheses, states and operands that meet them -/

/-- The invariant of a busy state in the middle of a pixel, every clause of it in force. -/
theorem test_beforePal_inv : Inv beforePal where
  mem := by decide
  idlePc := fun h => nomatch h
  idlePix := fun h => nomatch h
  busyNotDone := fun _ => rfl
  pixel :=
    { logical := fun _ => by decide
      border := fun _ => by decide
      tile := fun _ _ => by decide
      glyph := fun _ _ => rfl
      row := fun _ _ => rfl
      colour := fun _ _ => ⟨rfl, rfl⟩
      value := fun _ _ => by decide
      index := fun _ => rfl }

/-- StepKeepsTheInvariant: that state makes a step. -/
theorem test_witness_step_keeps_invariant : Inv beforePal ∧ ∃ t, step beforePal = .next t :=
  ⟨test_beforePal_inv, _, rfl⟩

/-- NoStepFaultsUnderInvariant: an invariant state whose step does fault, by a host access to SB[1000]. -/
theorem test_witness_fault_under_invariant :
    Inv { State.reset with turns := [.access (.setSB 1000 0)] } ∧
    step { State.reset with turns := [.access (.setSB 1000 0)] } = .fault .absentAddress :=
  ⟨{ mem := by decide
     idlePc := fun _ => rfl
     idlePix := fun _ => rfl
     busyNotDone := fun h => nomatch h
     pixel :=
       { logical := fun h => absurd h (by decide)
         border := fun h => absurd h (by decide)
         tile := fun h => absurd h (by decide)
         glyph := fun h => absurd h (by decide)
         row := fun h => absurd h (by decide)
         colour := fun h => absurd h (by decide)
         value := fun h => absurd h (by decide)
         index := fun h => absurd h (by decide) } }, rfl⟩

theorem fullState_sb (m : BitVec 1) : (fullState m).sb = rangeCells 1000 fun _ => 0x01#8 := by simp only [fullState]
theorem fullState_cg (m : BitVec 1) : (fullState m).cg = rangeCells 2048 fun _ => 0x1B#8 := by simp only [fullState]
theorem fullState_ca (m : BitVec 1) : (fullState m).ca = rangeCells 1000 fun _ => 0x0E#8 := by simp only [fullState]

/-- A byte of CA in the full state, in whatever platform and with whatever moves. -/
theorem fullState_attribute (m : BitVec 1) (p : Config.Platform) (ts : List Turn) {a : Nat} (ha : a < 1000) :
    { fullState m with platform := p, turns := ts }.byteIn .ca { fullState m with platform := p, turns := ts }.ca a =
      0x0E#8 := by
  simp only [State.byteIn, fullState_ca, memRead_rangeCells, if_pos ha, Option.getD_some]

/-- PixelFunctionIsTotal: the attributes are legal in any state under `mask`, and in the full state under either policy. -/
theorem test_witness_attributes_legal :
    AttributesLegal State.reset ∧
    ∀ m p ts, AttributesLegal { fullState m with platform := p, turns := ts } :=
  ⟨.inl rfl, fun m p ts => .inr fun a ha => by rw [fullState_attribute m p ts ha]; decide⟩

/-- InitialisedFramesReadWrittenBytes: the full state is initialised (70_reset_and_hazards.md R222) and IDLE. -/
theorem test_witness_initialised (m : BitVec 1) : (fullState m).initialised = true ∧ (fullState m).run = .idle := by
  refine ⟨?_, by simp only [fullState, idleState, State.reset, State.afterReset]⟩
  unfold State.initialised
  rw [fullState_sb, fullState_cg, fullState_ca, covers_rangeCells _ (Nat.le_refl 2048), covers_rangeCells _ (Nat.le_refl 1000),
    covers_rangeCells _ (Nat.le_refl 1000)]
  simp only [fullState, idleState, PendingWritten.all, Bool.and_self]

/-- DecodeInvertsEncode. -/
theorem test_witness_wellFormed :
    Instr.wellFormed (.wrRsvd 6 15) = true ∧ Instr.wellFormed (.wrRsvd 7 0) = true ∧ Instr.wellFormed .lcoord = true := by
  decide

/-- StepRunsDecodedInstruction, one state for each clause. -/
theorem test_witness_step_runs :
    (State.reset.platform.wellFormed = true ∧ State.reset.turns = []) ∧
    { idleState 0 with turns := [.command 0xD1] }.turns = .command 0xD1 :: [] ∧
    { busyState 0 0 with turns := [.raster] }.turns = .raster :: [] ∧
    (beforePal.turns = .stage :: [] ∧ beforePal.run = .busy ∧ decode beforePal.stageCode = .ok .pal) ∧
    ({ selState 1 0 0 with pix := { PixelLatch.empty with slot := .tile, inb := 1 } }.turns = .stage :: [] ∧
      { selState 1 0 0 with pix := { PixelLatch.empty with slot := .tile, inb := 1 } }.run = .busy ∧
      decode { selState 1 0 0 with pix := { PixelLatch.empty with slot := .tile, inb := 1 } }.stageCode =
        .error .stageSkipped) ∧
    { idleState 0 with turns := [.access .reset] }.turns = .access .reset :: [] ∧
    ((selState 0 0 2).turns = .stage :: [] ∧ (selState 0 0 2).run = .busy ∧
      decode (selState 0 0 2).stageCode = .error .reservedSelector) ∧
    beforePal.platform.wellFormed = true := by
  refine ⟨⟨?_, rfl⟩, rfl, rfl, ⟨rfl, rfl, rfl⟩, ⟨rfl, rfl, rfl⟩, rfl, ⟨rfl, rfl, rfl⟩, ?_⟩ <;> decide

/-- PlatformIsFixedAndChecked: each bound missed by one byte, a resize, and a step with a next state. -/
theorem test_witness_platform :
    ({ State.reset with platform := { platformAtReset with cgBytes := 4095 } }.platform.cgBytes < 4096 ∧
      { State.reset with platform := { platformAtReset with sbBytes := 999 } }.platform.sbBytes < 1000 ∧
      { State.reset with platform := { platformAtReset with caBytes := 1023 } }.platform.caBytes < 1024) ∧
    (State.reset.platform.wellFormed = true ∧
      { State.reset with turns := [.access (.resize 4096 1000 1024)] }.turns = .access (.resize 4096 1000 1024) :: []) ∧
    ∃ t, step State.reset = .next t := by
  refine ⟨by decide, ⟨by decide, rfl⟩, _, rfl⟩

/-- IdleBlockKeepsItsState: no move pending, and a turn of either kind. -/
theorem test_witness_idle :
    (State.reset.run = .idle ∧ State.reset.platform.wellFormed = true ∧ State.reset.turns = []) ∧
    { idleState 0 with turns := [.raster] }.turns = .raster :: [] ∧
    ({ idleState 0 with turns := [.stage] }.turns = .stage :: [] ∧ (idleState 0).run = .idle) := by
  decide

/-- RunAndDoneChangeOnlySo: a START, the last pixel of a frame by each of the rasterizer's three moves, a reset during a
frame, a START after a frame, and a reset after one. -/
theorem test_witness_run_done :
    [{ idleState 0 with turns := [.command 0xD1] },
      busyState 0 104447,
      { busyState 0 104447 with turns := [.raster] },
      { busyState 0 104447 with turns := [.stage], pix := { PixelLatch.empty with slot := .pal } },
      { busyState 0 5 with turns := [.access .reset] },
      { idleState 0 with done := true, turns := [.command 0xDF] },
      { idleState 0 with done := true, turns := [.access .reset] }].map
        (fun s => (nextState? (step s)).map fun t => (t.run, t.done)) =
    [some (.busy, false), some (.idle, true), some (.idle, true), some (.idle, true), some (.idle, false),
      some (.busy, false), some (.idle, false)] := by decide

/-- StartLatchesAndBegins, EveryCommandCompletes: an idle state, and from it, with nothing written, START and a read of each
slot complete: START latches what the pending registers hold, and RD returns it. -/
theorem test_witness_start :
    State.reset.run = .idle ∧
    (nextState? (exec (.start 0) State.reset)).map (fun t => (t.x, t.run, t.pc.val)) = some (State.reset.p, .busy, 0) ∧
    (nextState? (exec (.rd 0 0) State.reset)).map (fun t => t.rd) = some State.reset.p.border ∧
    (nextState? (exec (.rd 4 0) State.reset)).map (fun t => t.rd) = some (0#3 ++ State.reset.p.mode) := ⟨rfl, rfl, rfl, rfl⟩

/-- StartWhileBusyHasNoEffect, NoCommandStopsAFrame, HostAccessDuringFrameIsRefused: a busy state, a command that
completes, and the host's accesses as its next move. -/
theorem test_witness_busy :
    (busyState 0 384).run = .busy ∧ (busyState 0 384).platform.wellFormed = true ∧
    (nextState? (exec (decodeHc 0xD0) (busyState 0 384))).isSome = true ∧
    { busyState 0 384 with turns := [.access (.setCG 4095 0)] }.turns = .access (.setCG 4095 0) :: [] ∧
    { busyState 0 384 with turns := [.access (.setSB 1000 0)] }.turns = .access (.setSB 1000 0) :: [] ∧
    { busyState 0 384 with turns := [.access (.setCA 1023 0)] }.turns = .access (.setCA 1023 0) :: [] ∧
    { busyState 0 384 with turns := [.access (.getFB 131071)] }.turns = .access (.getFB 131071) :: [] ∧
    ({ busyState 0 384 with turns := [.command 0x80] }.turns = .command 0x80 :: [] ∧ 0x80 ≤ (0x80#8).toNat) ∧
    ({ busyState 0 384 with turns := [.command 0xCF] }.turns = .command 0xCF :: [] ∧ (0xCF#8).toNat < 0xD0) := by decide

/-- ReservedSlotsIgnoreWrites: the two slots are the two ends of the condition. -/
theorem test_witness_reserved_slots : ((6#3 : BitVec 3) = 6#3 ∨ (6#3 : BitVec 3) = 7#3) ∧ ((7#3 : BitVec 3) = 6#3 ∨ (7#3 : BitVec 3) = 7#3) := by
  decide

/-- StatusWordTellsRunAndDone and StepKeepsTheInvariant: states of the invariant, BUSY and IDLE with DONE. -/
theorem test_witness_status :
    Inv beforePal ∧ beforePal.statusWord = 0b0001#4 ∧ { idleState 0 with done := true }.statusWord = 0b0010#4 :=
  ⟨test_beforePal_inv, by decide, by decide⟩

/-- CommandsDuringFrameDoNotTearIt: a command and a raster step of a frame in progress. -/
theorem test_witness_tearing :
    (busyState 0 19300).run = .busy ∧ (nextState? (exec (decodeHc 0x8F) (busyState 0 19300))).isSome = true ∧
    (nextState? (exec .step (busyState 0 19300))).isSome = true := by decide

/-- The three frame statements: instructions that answer a next state, among them the writers each statement excepts. -/
theorem test_witness_frames :
    (nextState? (exec .pal beforePal)).isSome = true ∧ (nextState? (exec .step (busyState 0 0))).isSome = true ∧
    (nextState? (exec (.start 0) (idleState 0))).isSome = true ∧ (nextState? (exec (.rd 6 0) (idleState 0))).isSome = true ∧
    (nextState? (exec .scode (visState 0 48 0 0 0 0))).isSome = true := by decide

/-- TileSplitResult: the first and the last visible coordinate. -/
theorem test_witness_tile :
    let s := { busyState 0 0 with pix := { PixelLatch.empty with lx := 0, ly := 0 } }
    let t := { busyState 0 0 with pix := { PixelLatch.empty with lx := 319, ly := 199 } }
    (s.pix.inb = 0#1 ∧ 0 ≤ s.pix.lx ∧ s.pix.lx < 320 ∧ 0 ≤ s.pix.ly ∧ s.pix.ly < 200) ∧
    (t.pix.inb = 0#1 ∧ 0 ≤ t.pix.lx ∧ t.pix.lx < 320 ∧ 0 ≤ t.pix.ly ∧ t.pix.ly < 200) := by decide

/-- TileIndexIsDistinctAndInRange: the last row and column. -/
theorem test_witness_tile_index : (24#5).toNat < 25 ∧ (39#6).toNat < 40 ∧ tileIndex 24 39 = 999#10 := by decide

/-- FetchesReadTheirByte: each fetch at its highest address, and an attribute under each policy. -/
theorem test_witness_fetches :
    ((visState 0 999 0xFF 7 0 0).pix.inb = 0#1 ∧ (visState 0 999 0xFF 7 0 0).pix.tile.index.toNat < 1000 ∧
      memRead (visState 0 999 0xFF 7 0 0).sb 999 = some 0xFF#8) ∧
    memRead (visState 0 999 0xFF 7 0 0).cg ((0xFF#8).toNat * 8 + (7#3).toNat) = some 0x81#8 ∧
    (memRead (visState 0 999 0xFF 7 0 0).ca 999 = some 0xF7#8 ∧ (visState 0 999 0xFF 7 0 0).platform.attrHi = .mask) ∧
    (memRead (visState 0 48 0 0 0 0).ca 48 = some 0x0E#8 ∧ (0x0E#8).extractLsb' 4 4 = 0#4) := by decide

/-- UnwrittenMemoryReadsAsSomeValue: each clause, at the highest address the small states leave unwritten. (ATTR's is met
under `mask`: that a free value has bits 7:4 zero can be proved of none.) -/
theorem test_witness_unwritten :
    ((visState 0 998 0xFF 6 0 0).pix.inb = 0#1 ∧ (visState 0 998 0xFF 6 0 0).pix.tile.index.toNat < 1000 ∧
      memRead (visState 0 998 0xFF 6 0 0).sb 998 = none ∧
      memRead (visState 0 998 0xFF 6 0 0).cg ((0xFF#8).toNat * 8 + (6#3).toNat) = none ∧
      memRead (visState 0 998 0xFF 6 0 0).ca 998 = none ∧ (visState 0 998 0xFF 6 0 0).platform.attrHi = .mask) ∧
    ((idleState 0).run = .idle ∧ (104447#17).toNat < 104448 ∧ memRead (idleState 0).fb 104447 = none) := by decide

/-- FetchStagesStopWhere: each clause, at its boundary. -/
theorem test_witness_fetch_stops :
    ({ visState 0 999 0 0 0 0 with platform := { platformAtReset with attrHi := .refuse } }.pix.inb = 0#1 ∧
      ({ visState 0 999 0 0 0 0 with platform := { platformAtReset with attrHi := .refuse } }.byteIn .ca
        (visState 0 999 0 0 0 0).ca 999).extractLsb' 4 4 ≠ 0#4) ∧
    1000 ≤ (visState 0 1000 0 0 0 0).pix.tile.index.toNat ∧
    ¬ (0 ≤ (320 : Int) ∧ (320 : Int) < 320 ∧ 0 ≤ (199 : Int) ∧ (199 : Int) < 200) ∧
    ¬ (0 ≤ (-1 : Int) ∧ (-1 : Int) < 320 ∧ 0 ≤ (0 : Int) ∧ (0 : Int) < 200) := by decide

/-- StagesOutsideTheirConditionDoNothing, HiresUnpackTakesItsBit, MulticolorUnpackTakesItsPair. -/
theorem test_witness_unpack :
    (selState 1 0 0).pix.inb = 1#1 ∧ (visState 1 0 0 0 0 0).x.mode = 1#1 ∧ (visState 0 0 0 0 0 0).x.mode = 0#1 ∧
    (visState 0 0 0 0 0 0).pix.inb = 0#1 ∧ (visState 1 0 0 0 0 0).pix.inb = 0#1 := by decide

/-- PairedPixelsRenderIdentically: the mode, and the first and the last pair of a visible line. -/
theorem test_witness_pairs :
    (busyState 1 0).x.mode = 1#1 ∧ VisibleXY (2 * 16) 36 ∧ VisibleXY (2 * 175) 235 ∧ VisibleXY 351 235 := by
  unfold VisibleXY
  decide

/-- PixelClassesTakeTheirSource: a state for each class. -/
theorem test_witness_classes :
    (selState 1 0 0).pix.inb = 1#1 ∧ ((selState 0 0 0).pix.inb = 0#1 ∧ (selState 0 0 0).x.mode = 0#1 ∧ (selState 0 0 0).pix.v = 0#2) ∧
    (selState 0 0 1).pix.v = 1#2 ∧ ((selState 0 1 0).x.mode = 1#1 ∧ (selState 0 1 0).pix.v = 0#2) ∧
    (selState 0 1 1).pix.v = 1#2 ∧ (selState 0 1 2).pix.v = 2#2 ∧ (selState 0 1 3).pix.v = 3#2 := by decide

/-- UnselectedClassesDoNothing. -/
theorem test_witness_unselected :
    (Instr.tableRow .pxBorder).format = .sel ∧ (Instr.tableRow .pxBorder).accepts (selState 0 0 0).selWord.toNat = false ∧
    (Instr.tableRow .pxHbg).accepts (selState 1 0 0).selWord.toNat = false := by decide

/-- BorderPixelTakesBorderRegister: the four edges. -/
theorem test_witness_border_pixels : ¬ VisibleXY 31 36 ∧ ¬ VisibleXY 352 235 ∧ ¬ VisibleXY 32 35 ∧ ¬ VisibleXY 351 236 := by
  unfold VisibleXY
  decide

/-- VisiblePixelFollowsItsGlyph: the last visible pixel and its three bytes, and one legal under either policy. -/
theorem test_witness_visible_pixel :
    (VisibleXY 351 235 ∧ memRead (busyState 0 0).sb ((235 - 36) / 8 * 40 + (351 - 32) / 8) = some 0xFF#8 ∧
      memRead (busyState 0 0).cg ((0xFF#8).toNat * 8 + (235 - 36) % 8) = some 0x81#8 ∧
      memRead (busyState 0 0).ca ((235 - 36) / 8 * 40 + (351 - 32) / 8) = some 0xF7#8 ∧
      (busyState 0 0).platform.attrHi = .mask ∧ (busyState 0 0).x.mode = 0#1) ∧
    (VisibleXY 100 50 ∧ memRead (busyState 1 0).sb ((50 - 36) / 8 * 40 + (100 - 32) / 8) = some 0x01#8 ∧
      memRead (busyState 1 0).cg ((0x01#8).toNat * 8 + (50 - 36) % 8) = some 0x1B#8 ∧
      memRead (busyState 1 0).ca ((50 - 36) / 8 * 40 + (100 - 32) / 8) = some 0x0E#8 ∧
      (0x0E#8).extractLsb' 4 4 = 0#4 ∧ (busyState 1 0).x.mode = 1#1) := by
  unfold VisibleXY
  decide

/-- VisiblePixelDependsOnlyOn: two states that differ in the border register, in the glyph code and attribute of another
tile, in a line of the glyph the pixel does not show, in the high bits of its own attribute, and in the reset whose free
values stand elsewhere. -/
theorem test_witness_dependence :
    let s := busyState 1 0
    let t := { busyState 1 0 with
      x := { regs 1 with border := 3 }, sb := [(48, 0x01#8), (999, 0x20#8)], cg := [(13, 0x55#8), (14, 0x1B#8)],
      ca := [(48, 0xFE#8)], resets := 7 }
    VisibleXY 100 50 ∧ (48 : Nat) = (50 - 36) / 8 * 40 + (100 - 32) / 8 ∧ s.platform.attrHi = .mask ∧
    t.platform.attrHi = .mask ∧ t.x.mode = s.x.mode ∧ t.x.bg0 = s.x.bg0 ∧
    (s.x.mode = 1#1 → t.x.bg1 = s.x.bg1 ∧ t.x.bg2 = s.x.bg2) ∧
    s.byteIn .sb s.sb 48 = 0x01#8 ∧ t.byteIn .sb t.sb 48 = 0x01#8 ∧
    t.byteIn .cg t.cg ((0x01#8).toNat * 8 + (50 - 36) % 8) = s.byteIn .cg s.cg ((0x01#8).toNat * 8 + (50 - 36) % 8) ∧
    (t.byteIn .ca t.ca 48).extractLsb' 0 4 = (s.byteIn .ca s.ca 48).extractLsb' 0 4 := by
  refine ⟨by unfold VisibleXY; decide, rfl, rfl, rfl, rfl, rfl, fun _ => ⟨rfl, rfl⟩, rfl, rfl, ?_, ?_⟩ <;> decide

/-- RasterStepNeverFaults: the step at (351, 235) under `refuse`, whose attribute byte is 0xF7, and what the statement asks of
such a state. -/
theorem test_witness_raster_refused :
    let s := { busyState 0 90591 with platform := { platformAtReset with attrHi := .refuse } }
    refusal? (exec .step s) = some .attributeHighBits ∧ s.run = .busy ∧ VisibleXY (90591 % 384) (90591 / 384) ∧
    (s.byteIn .ca s.ca ((90591 / 384 - 36) / 8 * 40 + (90591 % 384 - 32) / 8)).extractLsb' 4 4 ≠ 0#4 := by
  unfold VisibleXY
  decide

/-- RasterStepDrawsOnePixel: a visible pixel, and the last pixel of a frame. -/
theorem test_witness_raster_step :
    ((busyState 1 19300).run = .busy ∧ pixelIndex (busyState 1 19300) (19300 % 384) (19300 / 384) = .ok 5#4) ∧
    ((busyState 0 104447).run = .busy ∧ pixelIndex (busyState 0 104447) (104447 % 384) (104447 / 384) = .ok 14#4) :=
  ⟨⟨rfl, rfl⟩, ⟨rfl, rfl⟩⟩

/-- FrameIsOrderIndependent: three positions in two orders, drawn. -/
theorem test_witness_orders :
    [(0 : Fin Config.npix), 19300, 90591].Perm [90591, 0, 19300] ∧
    ∃ t, drawAll [(0 : Fin Config.npix), 19300, 90591] (busyState 1 0) = .ok t := by
  refine ⟨by decide, _, rfl⟩

/-- NineStagesAreOneRasterStep. -/
theorem test_witness_nine_stages :
    let s := { busyState 1 19300 with turns := List.replicate 9 Turn.stage ++ [Turn.raster] }
    s.platform.wellFormed = true ∧ s.run = .busy ∧ s.pix = PixelLatch.empty ∧ s.turns = List.replicate 9 Turn.stage ++ [.raster] := by
  decide

/-- StartedFrameIsThePixelFunction: a host that has written nothing, and one that has done its boot duty on a platform that
refuses high attribute bits. -/
theorem test_witness_started_frame :
    ({ State.reset with turns := [.command 0xD1] }.platform.wellFormed = true ∧
      { State.reset with turns := [.command 0xD1] }.run = .idle ∧
      AttributesLegal { State.reset with turns := [.command 0xD1] } ∧ decodeHc 0xD1 = .start 0) ∧
    AttributesLegal { fullState 1 with platform := { platformAtReset with attrHi := .refuse }, turns := [.command 0xDF] } ∧
    decodeHc 0xDF = .start 7 :=
  ⟨⟨by decide, rfl, .inl rfl, by decide⟩, test_witness_attributes_legal.2 1 _ _, by decide⟩

/-- HostWritesAreSeen and HostReadsTheSurface: the ends of the address ranges, while IDLE. -/
theorem test_witness_host_accesses :
    (idleState 0).run = .idle ∧ (999#10).toNat < 1000 ∧ 1000 ≤ (1000#10).toNat ∧ (104447#17).toNat < 104448 ∧
    memRead { idleState 0 with fb := [(104447, recordOf 14)] }.fb (104447#17).toNat = some (recordOf 14) ∧
    memRead (idleState 0).fb (104447#17).toNat = none ∧ 104448 ≤ (104448#17).toNat :=
  ⟨rfl, by decide, by decide, by decide, rfl, rfl, by decide⟩

end Sys2Proof.Tests
end

/-! PROOFS. What every instruction can do to the state, and the statements on registers, flags, memories and reset
(10_state.md). -/

namespace Sys2Proof.Machine

variable {s t : State} {i : Instr}

/-! ### What an instruction can do -/

/-- The operations that give a value of the pixel in progress: those of a STAGE or SEL word, save PAL (30_encoding.md
R89, R90). -/
abbrev OfPixel (i : Instr) : Prop := i ≠ .pal ∧ (i.tableRow.format = .stage ∨ i.tableRow.format = .sel)

/-- All that an instruction with a next state can have done to the state. -/
inductive Effect (s : State) : Instr → State → Prop where
  | unchanged (i : Instr) : Effect s i s
  | pixel (i : Instr) (q : PixelLatch) (hi : OfPixel i) (hq : q.slot = s.pix.slot) : Effect s i (s.setPix q)
  | pal : Effect s .pal (s.writeFB s.pc (recordOf s.pix.idx))
  | wrBorder (c : Color) : Effect s (.wrBorder c) (s.setPending { s.p with border := c } { s.pw with border := true })
  | wrBg0 (c : Color) : Effect s (.wrBg0 c) (s.setPending { s.p with bg0 := c } { s.pw with bg0 := true })
  | wrBg1 (c : Color) : Effect s (.wrBg1 c) (s.setPending { s.p with bg1 := c } { s.pw with bg1 := true })
  | wrBg2 (c : Color) : Effect s (.wrBg2 c) (s.setPending { s.p with bg2 := c } { s.pw with bg2 := true })
  | wrMode (ign : BitVec 3) (m : BitVec 1) :
      Effect s (.wrMode ign m) (s.setPending { s.p with mode := m } { s.pw with mode := true })
  | start (ign : BitVec 3) (hr : s.run = .idle) : Effect s (.start ign) s.beginFrame
  | rd (a : BitVec 3) (ign : BitVec 4) : Effect s (.rd a ign) (s.setRd (readSlot s a))
  | step (c : Color) (hr : s.run = .busy) : Effect s .step (s.writeFB s.pc (recordOf c)).endPixel

/-- A class operation gives the pixel its colour, or is not selected. -/
theorem effect_of_classOp {bits mask : BitVec 4} {c : Color} (hi : OfPixel i) (h : classOp bits mask c s = .next t) :
    Effect s i t := by
  obtain ⟨-, rfl⟩ | ⟨-, rfl⟩ := classOp_next h
  · exact .pixel i _ hi rfl
  · exact .unchanged i

/-- Every instruction that answers a next state has one of these effects. -/
theorem exec_effect (h : exec i s = .next t) : Effect s i t := by
  cases i with
  | lcoord => obtain rfl := Host.Outcome.next.inj h; exact .pixel _ _ (by decide) rfl
  | border => obtain rfl := Host.Outcome.next.inj h; exact .pixel _ _ (by decide) rfl
  | tile =>
    obtain ⟨-, -, rfl⟩ | ⟨-, rfl⟩ := execTile_next h
    · exact .pixel _ _ (by decide) rfl
    · exact .unchanged _
  | scode =>
    obtain ⟨-, g, -, rfl⟩ | ⟨-, rfl⟩ := execScode_next h
    · exact .pixel _ _ (by decide) rfl
    · exact .unchanged _
  | grow =>
    obtain ⟨-, rfl⟩ | ⟨-, rfl⟩ := execGrow_next h
    · exact .pixel _ _ (by decide) rfl
    · exact .unchanged _
  | attr =>
    obtain ⟨-, fg, -, rfl⟩ | ⟨-, rfl⟩ := execAttr_next h
    · exact .pixel _ _ (by decide) rfl
    · exact .unchanged _
  | unpackH =>
    obtain ⟨-, -, rfl⟩ | ⟨-, rfl⟩ := execUnpackH_next h
    · exact .pixel _ _ (by decide) rfl
    · exact .unchanged _
  | unpackM =>
    obtain ⟨-, -, rfl⟩ | ⟨-, rfl⟩ := execUnpackM_next h
    · exact .pixel _ _ (by decide) rfl
    · exact .unchanged _
  | pal => obtain rfl := Host.Outcome.next.inj h; exact .pal
  | pxBorder => exact effect_of_classOp (by decide) h
  | pxHbg => exact effect_of_classOp (by decide) h
  | pxHfg => exact effect_of_classOp (by decide) h
  | pxMbg0 => exact effect_of_classOp (by decide) h
  | pxMbg1 => exact effect_of_classOp (by decide) h
  | pxMbg2 => exact effect_of_classOp (by decide) h
  | pxMfg => exact effect_of_classOp (by decide) h
  | wrBorder c => obtain rfl := Host.Outcome.next.inj h; exact .wrBorder c
  | wrBg0 c => obtain rfl := Host.Outcome.next.inj h; exact .wrBg0 c
  | wrBg1 c => obtain rfl := Host.Outcome.next.inj h; exact .wrBg1 c
  | wrBg2 c => obtain rfl := Host.Outcome.next.inj h; exact .wrBg2 c
  | wrMode ign m => obtain rfl := Host.Outcome.next.inj h; exact .wrMode ign m
  | start ign =>
    obtain ⟨-, rfl⟩ | ⟨hr, rfl⟩ := execStart_next h
    · exact .unchanged _
    · exact .start ign hr
  | ctrlNop ign => obtain rfl := Host.Outcome.next.inj h; exact .unchanged _
  | wrRsvd a d => obtain rfl := Host.Outcome.next.inj h; exact .unchanged _
  | rd a ign => obtain rfl := execRd_next h; exact .rd a ign
  | step =>
    obtain ⟨-, rfl⟩ | ⟨hr, c, -, rfl⟩ := execStep_next h
    · exact .unchanged _
    · exact .step c hr

/-- An operation of the pixel in progress changes its values only, and not its pipeline position. -/
theorem exec_ofPixel_next (hi : OfPixel i) (h : exec i s = .next t) :
    ∃ q : PixelLatch, q.slot = s.pix.slot ∧ t = s.setPix q := by
  cases exec_effect h with
  | unchanged => exact ⟨s.pix, rfl, rfl⟩
  | pixel _ q _ hq => exact ⟨q, hq, rfl⟩
  | _ => simp [OfPixel, Instr.tableRow] at hi

/-! ### The words the agents' steps are decoded from -/

/-- A host word is the word of a host command (30_encoding.md R87). -/
theorem decodeHc_format (w : BitVec 8) : (decodeHc w).tableRow.format = .hc := by
  simp only [decodeHc]
  split_ifs <;> rfl

/-- A SEL word selects an operation of the pixel in progress. -/
theorem decodeSel_ofPixel {w : BitVec 4} (h : decodeSel w = .ok i) : OfPixel i := by
  unfold decodeSel at h
  split_ifs at h <;> cases h <;> decide

/-- So does a STAGE word, save at the last position. -/
theorem decodeStage_ofPixel {c : Slot} {w : BitVec 2} (hc : c ≠ .pal) (h : decodeStage c w = .ok i) : OfPixel i := by
  cases c with
  | pal => exact absurd rfl hc
  | select => exact nomatch h
  | lcoord | border => cases h; decide
  | _ => simp only [decodeStage] at h; split_ifs at h <;> cases h <;> decide

/-! ### The stage turn -/

/-- What the next stage is decoded from, at each position. -/
theorem decode_stageCode (s : State) :
    decode s.stageCode =
      if s.pix.slot = .select then decodeSel s.selWord else decodeStage s.pix.slot s.stageWord := by
  unfold State.stageCode
  cases s.pix.slot <;> rfl

/-- Bit 1 of the STAGE word is inb (30_encoding.md R90). -/
theorem stageWord_bit1 (s : State) : s.stageWord.getLsbD 1 = decide (s.pix.inb ≠ 0#1) := by
  unfold State.stageWord
  generalize s.pix.inb = i; generalize s.x.mode = m
  revert i m; decide

/-- Bit 0 of the STAGE word is the mode. -/
theorem stageWord_bit0 (s : State) : s.stageWord.getLsbD 0 = decide (s.x.mode ≠ 0#1) := by
  unfold State.stageWord
  generalize s.pix.inb = i; generalize s.x.mode = m
  revert i m; decide

/-- Before the last position the decoded stage is an operation of the pixel in progress. -/
theorem decode_stageCode_ofPixel (hc : s.pix.slot ≠ .pal) (h : decode s.stageCode = .ok i) : OfPixel i := by
  rw [decode_stageCode] at h
  split at h
  · exact decodeSel_ofPixel h
  · exact decodeStage_ofPixel hc h

/-- At the last position it is PAL, under every STAGE word. -/
theorem decode_stageCode_pal (hc : s.pix.slot = .pal) : decode s.stageCode = .ok .pal := by
  rw [decode_stageCode, hc]; rfl

/-- A stage is passed over only for a border pixel, at one of the five positions whose condition asks for a visible one. -/
theorem decode_stageCode_error {r : Reject} (h : decode s.stageCode = .error r) (hr : r ≠ .reservedSelector) :
    s.pix.inb ≠ 0#1 ∧ 2 ≤ slotNumber s.pix.slot ∧ slotNumber s.pix.slot ≤ 6 := by
  rw [decode_stageCode] at h
  cases hc : s.pix.slot with
  | lcoord | border | pal => simp [hc, decodeStage] at h
  | select =>
    simp only [hc, if_true, decodeSel] at h
    split_ifs at h
    cases h
    exact absurd rfl hr
  | tile | scode | grow | attr | unpack =>
    simp only [hc, reduceCtorEq, if_false, decodeStage, stageWord_bit1, decide_eq_true_eq] at h
    split_ifs at h with hb
    exact ⟨hb, by decide, by decide⟩

/-- After PAL the raster step ends. -/
theorem State.afterStage_of_pal (h : s.pix.slot = .pal) : s.afterStage = s.endPixel := by
  unfold State.afterStage; rw [h]

/-- After any other stage the pixel goes on at the next position. -/
theorem State.afterStage_of_ne_pal (h : s.pix.slot ≠ .pal) :
    s.afterStage = s.setPix { s.pix with slot := nextSlot s.pix.slot } := by
  unfold State.afterStage
  split
  · next hp => exact absurd hp h
  · rfl

/-- A stage turn with a next state: nothing while IDLE; at the last position the pixel's record is written and the raster
step ends; before it only values of the pixel in progress change. -/
theorem stageTurn_exec_next (h : stageTurn exec s = .next t) :
    (s.run = .idle ∧ t = s) ∨
    (s.run = .busy ∧ s.pix.slot = .pal ∧ t = (s.writeFB s.pc (recordOf s.pix.idx)).endPixel) ∨
    (s.run = .busy ∧ s.pix.slot ≠ .pal ∧ ∃ q, t = s.setPix q) := by
  by_cases hp : s.pix.slot = .pal
  · have hd := decode_stageCode_pal hp
    obtain hi | ⟨hr, i, u, hi, hu, rfl⟩ | ⟨-, hi | hi, -⟩ := stageTurn_next h
    · exact .inl hi
    · cases hd.symm.trans hi
      obtain rfl := Host.Outcome.next.inj hu
      exact .inr (.inl ⟨hr, hp, State.afterStage_of_pal hp⟩)
    · exact nomatch hd.symm.trans hi
    · exact nomatch hd.symm.trans hi
  · obtain hi | ⟨hr, i, u, hi, hu, rfl⟩ | ⟨hr, -, rfl⟩ := stageTurn_next h
    · exact .inl hi
    · obtain ⟨q, hq, rfl⟩ := exec_ofPixel_next (decode_stageCode_ofPixel hp hi) hu
      exact .inr (.inr ⟨hr, hp, _, State.afterStage_of_ne_pal (hq ▸ hp)⟩)
    · exact .inr (.inr ⟨hr, hp, _, State.afterStage_of_ne_pal hp⟩)

/-! ### RUN and DONE -/

/-- STATUS, bit by bit (10_state.md R29). -/
theorem State.statusWord_bits (s : State) :
    s.statusWord.getLsbD 0 = decide (s.run = .busy) ∧ s.statusWord.getLsbD 1 = s.done ∧
      s.statusWord.getLsbD 2 = false ∧ s.statusWord.getLsbD 3 = false := by
  unfold State.statusWord
  generalize s.done = d
  cases s.run <;> revert d <;> decide

/-- STATUS of an IDLE block is DONE at bit 1. -/
theorem State.statusWord_of_idle (h : s.run = .idle) : s.statusWord = if s.done then 0b0010#4 else 0b0000#4 := by
  rw [State.statusWord, h]
  cases s.done <;> rfl

/-- STATUS of a BUSY block whose DONE is 0. -/
theorem State.statusWord_of_busy (h : s.run = .busy) (hd : s.done = false) : s.statusWord = 0b0001#4 := by
  rw [State.statusWord, h, hd]; rfl

/-- The end of a raster step leaves the flags, save at the last pixel of the frame (44_frame_control.md R175, R176). -/
theorem State.endPixel_flags (s : State) :
    (s.endPixel.run = s.run ∧ s.endPixel.done = s.done) ∨
    (s.pc.val = 104447 ∧ s.endPixel.run = .idle ∧ s.endPixel.done = true) := by
  by_cases h : s.pc.val + 1 < Config.npix
  · rw [State.endPixel_of_lt s h]; exact .inl ⟨rfl, rfl⟩
  · rw [State.endPixel_of_last s h]
    have := s.pc_lt
    exact .inr ⟨by simp only [Config.npix] at h; omega, rfl, rfl⟩

/-- An instruction leaves RUN and DONE, save an accepted START, and STEP at the last pixel of a frame. -/
theorem exec_flags (h : exec i s = .next t) :
    (t.run = s.run ∧ t.done = s.done) ∨
    (∃ ign, i = .start ign ∧ s.run = .idle ∧ t.run = .busy ∧ t.done = false) ∨
    (i = .step ∧ s.run = .busy ∧ s.pc.val = 104447 ∧ t.run = .idle ∧ t.done = true) := by
  cases exec_effect h with
  | start ign hr => exact .inr (.inl ⟨ign, rfl, hr, rfl, rfl⟩)
  | step c hr =>
    obtain h | ⟨hpc, h⟩ := (s.writeFB s.pc (recordOf c)).endPixel_flags
    · exact .inl h
    · exact .inr (.inr ⟨rfl, hr, hpc, h⟩)
  | _ => exact .inl ⟨rfl, rfl⟩

/-- A stage turn leaves them, save PAL at the last pixel of a frame. -/
theorem stageTurn_flags (h : stageTurn exec s = .next t) :
    (t.run = s.run ∧ t.done = s.done) ∨
    (s.pix.slot = .pal ∧ s.run = .busy ∧ s.pc.val = 104447 ∧ t.run = .idle ∧ t.done = true) := by
  obtain ⟨-, rfl⟩ | ⟨hr, hp, rfl⟩ | ⟨-, -, q, rfl⟩ := stageTurn_exec_next h
  · exact .inl ⟨rfl, rfl⟩
  · obtain h | ⟨hpc, h⟩ := (s.writeFB s.pc (recordOf s.pix.idx)).endPixel_flags
    · exact .inl h
    · exact .inr ⟨hp, hr, hpc, h⟩
  · exact .inl ⟨rfl, rfl⟩

/-- An access of the host leaves them, save reset. -/
theorem hostAccess_flags {m : HostAccess} (h : hostAccess m s = .next t) :
    (t.run = s.run ∧ t.done = s.done) ∨ (m = .reset ∧ t.run = .idle ∧ t.done = false) := by
  obtain ⟨a, b, -, -, rfl⟩ | ⟨a, b, -, -, -, rfl⟩ | ⟨a, b, -, -, rfl⟩ | ⟨a, -, -, -, rfl⟩ | ⟨hm, rfl⟩ :=
    hostAccess_next h
  case inr.inr.inr.inr => exact .inr ⟨hm, rfl, rfl⟩
  all_goals exact .inl ⟨rfl, rfl⟩

open Sys2Proof.Safety in
/-- All that a step can do to RUN and DONE (10_state.md R26). -/
theorem step_flags (h : step s = .next t) :
    (t.run = s.run ∧ t.done = s.done) ∨
    ((∃ w rest ign, s.turns = .command w :: rest ∧ decodeHc w = .start ign) ∧
      s.run = .idle ∧ t.run = .busy ∧ t.done = false) ∨
    (RasterizerEndsPixel s ∧ s.run = .busy ∧ s.pc.val = 104447 ∧ t.run = .idle ∧ t.done = true) ∨
    ((∃ rest, s.turns = .access .reset :: rest) ∧ t.run = .idle ∧ t.done = false) := by
  obtain ⟨-, ⟨hs, h⟩ | ⟨rest, hs, h⟩ | ⟨rest, hs, h⟩ | ⟨w, rest, hs, h⟩ | ⟨m, rest, hs, h⟩⟩ := step_next h
  · obtain h | ⟨ign, hi, -⟩ | ⟨-, h⟩ := exec_flags h
    · exact .inl h
    · exact nomatch hi
    · exact .inr (.inr (.inl ⟨.inl hs, h⟩))
  · obtain h | ⟨ign, hi, -⟩ | ⟨-, h⟩ := exec_flags h
    · exact .inl h
    · exact nomatch hi
    · exact .inr (.inr (.inl ⟨.inr (.inl ⟨rest, hs⟩), h⟩))
  · obtain h | ⟨hp, h⟩ := stageTurn_flags h
    · exact .inl h
    · exact .inr (.inr (.inl ⟨.inr (.inr ⟨rest, hs, hp⟩), h⟩))
  · obtain h | ⟨ign, hi, h⟩ | ⟨hi, -⟩ := exec_flags h
    · exact .inl h
    · exact .inr (.inl ⟨⟨w, rest, ign, hs, hi⟩, h⟩)
    · exact absurd (decodeHc_format w) (by rw [hi]; decide)
  · obtain h | ⟨rfl, hf⟩ := hostAccess_flags h
    · exact .inl h
    · exact .inr (.inr (.inr ⟨⟨rest, hs⟩, hf⟩))

/-! ### The selection stage -/

/-- The class an assembled selector word decodes to (30_encoding.md R88, R91). -/
theorem decodeSel_selectorWord : ∀ (inb m : BitVec 1) (v : BitVec 2),
    decodeSel (selectorWord inb m v) =
      if inb = 1#1 then .ok .pxBorder
      else if m = 0#1 then
        (if v = 1#2 then .ok .pxHfg else if v = 0#2 then .ok .pxHbg else .error .reservedSelector)
      else if v = 0#2 then .ok .pxMbg0
      else if v = 1#2 then .ok .pxMbg1
      else if v = 2#2 then .ok .pxMbg2
      else .ok .pxMfg := by decide

/-- A selector word matches the row of the class it decodes to (43_color_select.md R150). -/
theorem decodeSel_matches {w : BitVec 4} (h : decodeSel w = .ok i) :
    (w &&& BitVec.ofNat 4 i.tableRow.maskBits) = BitVec.ofNat 4 i.tableRow.matchBits := by
  unfold decodeSel at h
  split_ifs at h with hb <;> cases h
  · revert w; decide
  all_goals subst ‹w = _›; rfl

/-- A class whose row the selector word matches gives the pixel its colour source. -/
theorem classOp_of_matches {bits mask : BitVec 4} (c : Color) (h : (s.selWord &&& mask) = bits) :
    classOp bits mask c s = .next (s.setPix { s.pix with idx := c }) := by
  rw [classOp, if_pos (by simpa [State.selMatches] using h)]

/-- The colour of the pixel in progress: the source its class selects (43_color_select.md R151 to R157). -/
def State.classColor (s : State) : Color :=
  if s.pix.inb = 1#1 then s.x.border
  else if s.x.mode = 0#1 then hiresSource s.x s.pix.fg s.pix.v
  else multiSource s.x s.pix.fg s.pix.v

/-- The class decoded from the pixel in progress gives it that colour. -/
theorem exec_of_decodeSel (h : decodeSel s.selWord = .ok i) :
    exec i s = .next (s.setPix { s.pix with idx := s.classColor }) := by
  have hm := decodeSel_matches h
  rw [State.selWord, decodeSel_selectorWord] at h
  unfold State.classColor hiresSource multiSource
  split_ifs at h ⊢ <;> cases h <;> exact classOp_of_matches _ hm

end Sys2Proof.Machine

namespace Sys2Proof.Safety

open Sys2Proof.Machine

variable {s t u : State} {i : Instr}

/-! ### The pixel in progress, stage by stage -/

/-- What the stage at a position has settled once it is behind: that position's clause of `PixelAgrees`. -/
def Settled (s : State) : Slot → Prop
  | .lcoord => s.pix.lx = logicalX (coordX s.pc) ∧ s.pix.ly = logicalY (coordY s.pc)
  | .border => s.pix.inb = borderBit s.pix.lx s.pix.ly
  | .tile => s.pix.inb = 0#1 → s.pix.tile = tileSplit s.pix.lx s.pix.ly
  | .scode => s.pix.inb = 0#1 → readSB s s.pix.tile.index = .ok s.pix.g
  | .grow => s.pix.inb = 0#1 → readCG s (glyphAddr s.pix.g s.pix.tile.wr) = s.pix.b
  | .attr => s.pix.inb = 0#1 →
    readCA s s.pix.tile.index = s.pix.a ∧ attrForeground s.platform.attrHi s.pix.a = .ok s.pix.fg
  | .unpack => s.pix.inb = 0#1 →
    s.pix.v = if s.x.mode = 0#1 then unpackHires s.pix.b s.pix.tile.wc else unpackMulti s.pix.b s.pix.tile.wc
  | .select => pixelIndex s (coordX s.pc) (coordY s.pc) = .ok s.pix.idx
  | .pal => True

/-- A pixel agrees with its rules when every stage behind it has settled its values. -/
theorem pixelAgrees_iff : PixelAgrees s ↔ ∀ c, slotNumber c < slotNumber s.pix.slot → Settled s c := by
  constructor
  · intro h c hc
    cases c with
    | lcoord => exact h.logical hc
    | border => exact h.border hc
    | tile => exact h.tile hc
    | scode => exact h.glyph hc
    | grow => exact h.row hc
    | attr => exact h.colour hc
    | unpack => exact h.value hc
    | select => exact h.index hc
    | pal => trivial
  · exact fun h => ⟨h .lcoord, h .border, h .tile, h .scode, h .grow, h .attr, h .unpack, h .select⟩

/-- Nothing is asked while no pixel is in progress. -/
theorem pixelAgrees_of_empty (h : s.pix = PixelLatch.empty) : PixelAgrees s := by
  rw [pixelAgrees_iff, h]
  exact fun c hc => absurd hc (Nat.not_lt_zero _)

/-- On a border pixel the stages from TILE to the unpackers have nothing to settle. -/
theorem settled_of_border {c : Slot} (hb : s.pix.inb ≠ 0#1) (h2 : 2 ≤ slotNumber c) (h6 : slotNumber c ≤ 6) :
    Settled s c := by
  cases c with
  | lcoord | border => exact absurd h2 (by decide)
  | select | pal => exact absurd h6 (by decide)
  | tile | scode | grow | attr | unpack => exact fun h => absurd h hb

/-- What is settled does not hang on the position the pixel stands at. -/
theorem settled_setSlot {c d : Slot} (h : Settled s c) : Settled (s.setPix { s.pix with slot := d }) c := by
  cases c <;> exact h

/-- One more stage is behind the next position. -/
theorem slotNumber_nextSlot {c : Slot} (h : c ≠ .pal) : slotNumber (nextSlot c) = slotNumber c + 1 := by
  cases c with
  | pal => exact absurd rfl h
  | _ => rfl

/-- No two positions have the same stages behind them. -/
theorem slotNumber_injective {c d : Slot} (h : slotNumber c = slotNumber d) : c = d := by
  cases c <;> cases d <;> simp_all [slotNumber]

/-- A stage keeps the agreement when it keeps what the stages before it have settled and settles its own values. -/
theorem pixelAgrees_afterStage {c : Slot} (h : PixelAgrees s) (hs : s.pix.slot = c) (hu : u.pix.slot = c) (hc : c ≠ .pal)
    (hold : ∀ d, slotNumber d < slotNumber c → Settled s d → Settled u d) (hnew : Settled u c) :
    PixelAgrees u.afterStage := by
  rw [pixelAgrees_iff, hs] at h
  rw [State.afterStage_of_ne_pal (hu ▸ hc), pixelAgrees_iff]
  intro d hd
  rw [State.setPix_pix, hu, slotNumber_nextSlot hc, Nat.lt_succ_iff_lt_or_eq] at hd
  apply settled_setSlot
  obtain hd | hd := hd
  · exact hold d hd (h d hd)
  · rwa [slotNumber_injective hd]

/-- A stage passed over on a border pixel keeps it. -/
theorem pixelAgrees_afterSkip (h : PixelAgrees s) (hb : s.pix.inb ≠ 0#1) (h2 : 2 ≤ slotNumber s.pix.slot)
    (h6 : slotNumber s.pix.slot ≤ 6) : PixelAgrees s.afterStage :=
  pixelAgrees_afterStage h rfl rfl (fun hp => by rw [hp] at h6; exact absurd h6 (by decide)) (fun _ _ hd => hd)
    (settled_of_border hb h2 h6)

/-- Where every stage before the selection is behind, the pixel function answers the colour the class selects. -/
theorem pixelIndex_of_agrees (h : PixelAgrees s) (hs : s.pix.slot = .select) :
    pixelIndex s (coordX s.pc) (coordY s.pc) = .ok s.classColor := by
  have h' := pixelAgrees_iff.1 h
  rw [hs] at h'
  obtain ⟨hlx, hly⟩ : Settled s .lcoord := h' .lcoord (by decide)
  have hinb : Settled s .border := h' .border (by decide)
  rw [Settled, hlx, hly] at hinb
  obtain hb | hb := bit_cases s.pix.inb
  · have hin := (borderBit_eq_zero_iff _ _).1 (hinb ▸ hb)
    have htile : s.pix.tile = _ := h' .tile (by decide) hb
    obtain ⟨-, hg⟩ := readSB_ok_iff.1 (h' .scode (by decide) hb)
    have hrow : _ = s.pix.b := h' .grow (by decide) hb
    obtain ⟨ha, hfg⟩ := h' .attr (by decide) hb
    have hv : s.pix.v = _ := h' .unpack (by decide) hb
    rw [hlx, hly] at htile
    rw [pixelIndex_visible hin, ← htile]
    by_cases hm : s.x.mode = 0#1 <;> simp [hg, hrow, ha, hfg, Except.map, State.classColor, hb, hv, hm]
  · have hout : insideVisible (logicalX (coordX s.pc)) (logicalY (coordY s.pc)) = false := by
      rw [Bool.eq_false_iff, ne_eq, ← borderBit_eq_zero_iff, ← hinb, hb]; decide
    simp [pixelIndex, hout, State.classColor, hb]

/-! ### Each stage keeps the agreement: it settles its own values, or is passed over on a border pixel -/

theorem pixelAgrees_afterLcoord (h : PixelAgrees s) (hs : s.pix.slot = .lcoord) (hu : execLcoord s = .next u) :
    PixelAgrees u.afterStage := by
  obtain rfl := Host.Outcome.next.inj hu
  exact pixelAgrees_afterStage h hs hs (by decide) (fun d hd => absurd hd (Nat.not_lt_zero _)) ⟨rfl, rfl⟩

theorem pixelAgrees_afterBorder (h : PixelAgrees s) (hs : s.pix.slot = .border) (hu : execBorder s = .next u) :
    PixelAgrees u.afterStage := by
  obtain rfl := Host.Outcome.next.inj hu
  refine pixelAgrees_afterStage h hs hs (by decide) (fun d hd hold => ?_) rfl
  obtain rfl : d = .lcoord := slotNumber_injective (Nat.lt_one_iff.1 hd)
  exact hold

theorem pixelAgrees_afterTile (h : PixelAgrees s) (hs : s.pix.slot = .tile) (hu : execTile s = .next u) :
    PixelAgrees u.afterStage := by
  obtain ⟨-, -, rfl⟩ | ⟨hb, rfl⟩ := execTile_next hu
  · refine pixelAgrees_afterStage h hs hs (by decide) (fun d hd hold => ?_) (fun _ => rfl)
    cases d <;> simp [slotNumber] at hd <;> exact hold
  · exact pixelAgrees_afterSkip h hb (hs ▸ by decide) (hs ▸ by decide)

theorem pixelAgrees_afterScode (h : PixelAgrees s) (hs : s.pix.slot = .scode) (hu : execScode s = .next u) :
    PixelAgrees u.afterStage := by
  obtain ⟨-, g, hg, rfl⟩ | ⟨hb, rfl⟩ := execScode_next hu
  · refine pixelAgrees_afterStage h hs hs (by decide) (fun d hd hold => ?_) (fun _ => hg)
    cases d <;> simp [slotNumber] at hd <;> exact hold
  · exact pixelAgrees_afterSkip h hb (hs ▸ by decide) (hs ▸ by decide)

theorem pixelAgrees_afterGrow (h : PixelAgrees s) (hs : s.pix.slot = .grow) (hu : execGrow s = .next u) :
    PixelAgrees u.afterStage := by
  obtain ⟨-, rfl⟩ | ⟨hb, rfl⟩ := execGrow_next hu
  · refine pixelAgrees_afterStage h hs hs (by decide) (fun d hd hold => ?_) (fun _ => rfl)
    cases d <;> simp [slotNumber] at hd <;> exact hold
  · exact pixelAgrees_afterSkip h hb (hs ▸ by decide) (hs ▸ by decide)

theorem pixelAgrees_afterAttr (h : PixelAgrees s) (hs : s.pix.slot = .attr) (hu : execAttr s = .next u) :
    PixelAgrees u.afterStage := by
  obtain ⟨-, fg, hfg, rfl⟩ | ⟨hb, rfl⟩ := execAttr_next hu
  · refine pixelAgrees_afterStage h hs hs (by decide) (fun d hd hold => ?_) (fun _ => ⟨rfl, hfg⟩)
    cases d <;> simp [slotNumber] at hd <;> exact hold
  · exact pixelAgrees_afterSkip h hb (hs ▸ by decide) (hs ▸ by decide)

/-- The unpacker's value, under the mode it belongs to. -/
theorem pixelAgrees_afterUnpack (h : PixelAgrees s) (hs : s.pix.slot = .unpack) {v : BitVec 2}
    (hv : v = if s.x.mode = 0#1 then unpackHires s.pix.b s.pix.tile.wc else unpackMulti s.pix.b s.pix.tile.wc) :
    PixelAgrees (s.setPix { s.pix with v := v }).afterStage := by
  refine pixelAgrees_afterStage h hs hs (by decide) (fun d hd hold => ?_) (fun _ => hv)
  cases d <;> simp [slotNumber] at hd <;> exact hold

theorem pixelAgrees_afterSelect (h : PixelAgrees s) (hs : s.pix.slot = .select) :
    PixelAgrees (s.setPix { s.pix with idx := s.classColor }).afterStage := by
  refine pixelAgrees_afterStage h hs hs (by decide) (fun d hd hold => ?_) ?_
  · cases d <;> simp [slotNumber] at hd <;> exact hold
  · exact (pixelIndex_congr (s := s) rfl rfl rfl rfl rfl rfl _ _).trans (pixelIndex_of_agrees h hs)

/-- Whatever the decoded stage is, before the last position, it keeps the agreement. -/
theorem pixelAgrees_afterDecoded (h : PixelAgrees s) (hp : s.pix.slot ≠ .pal) (hd : decode s.stageCode = .ok i)
    (hu : exec i s = .next u) : PixelAgrees u.afterStage := by
  rw [decode_stageCode] at hd
  cases hs : s.pix.slot <;>
    simp only [hs, reduceCtorEq, if_false, if_true, decodeStage, stageWord_bit1, stageWord_bit0, decide_eq_true_eq] at hd
  case pal => exact absurd hs hp
  case lcoord => cases hd; exact pixelAgrees_afterLcoord h hs hu
  case border => cases hd; exact pixelAgrees_afterBorder h hs hu
  case tile => split_ifs at hd; cases hd; exact pixelAgrees_afterTile h hs hu
  case scode => split_ifs at hd; cases hd; exact pixelAgrees_afterScode h hs hu
  case grow => split_ifs at hd; cases hd; exact pixelAgrees_afterGrow h hs hu
  case attr => split_ifs at hd; cases hd; exact pixelAgrees_afterAttr h hs hu
  case unpack =>
    split_ifs at hd with hb hm <;> cases hd
    · obtain ⟨-, -, rfl⟩ | ⟨hn, -⟩ := execUnpackM_next hu
      · exact pixelAgrees_afterUnpack h hs (if_neg hm).symm
      · exact absurd ⟨not_not.1 hb, (bit_cases _).resolve_left hm⟩ hn
    · obtain ⟨-, -, rfl⟩ | ⟨hn, -⟩ := execUnpackH_next hu
      · exact pixelAgrees_afterUnpack h hs (if_pos (not_not.1 hm)).symm
      · exact absurd ⟨not_not.1 hb, not_not.1 hm⟩ hn
  case select =>
    obtain rfl := Host.Outcome.next.inj ((exec_of_decodeSel hd).symm.trans hu)
    exact pixelAgrees_afterSelect h hs

/-- A stage turn keeps the agreement; after PAL no pixel is in progress. -/
theorem stageTurn_keeps_pixelAgrees (h : PixelAgrees s) (ht : stageTurn exec s = .next t) : PixelAgrees t := by
  by_cases hp : s.pix.slot = .pal
  · obtain ⟨-, rfl⟩ | ⟨-, -, rfl⟩ | ⟨-, hn, -⟩ := stageTurn_exec_next ht
    · exact h
    · exact pixelAgrees_of_empty (State.endPixel_pix _)
    · exact absurd hp hn
  · obtain ⟨-, rfl⟩ | ⟨-, i, u, hi, hu, rfl⟩ | ⟨-, hi | hi, rfl⟩ := stageTurn_next ht
    · exact h
    · exact pixelAgrees_afterDecoded h hp hi hu
    · obtain ⟨hb, h2, h6⟩ := decode_stageCode_error hi (by decide)
      exact pixelAgrees_afterSkip h hb h2 h6
    · obtain ⟨hb, h2, h6⟩ := decode_stageCode_error hi (by decide)
      exact pixelAgrees_afterSkip h hb h2 h6

/-! ### Every step keeps the invariant -/

/-- An update of fields the pixel in progress does not read leaves its agreement. -/
theorem pixelAgrees_congr (h : PixelAgrees s) (hpix : t.pix = s.pix) (hpc : t.pc = s.pc) (hx : t.x = s.x)
    (hcg : t.cg = s.cg) (hsb : t.sb = s.sb) (hca : t.ca = s.ca) (hr : t.resets = s.resets)
    (hp : t.platform = s.platform) : PixelAgrees t := by
  have hsame (c : Slot) : Settled t c ↔ Settled s c := by
    cases c <;> simp only [Settled, readSB, readCG, readCA, State.byteIn, pixelIndex_congr hx hcg hsb hca hr hp, hpix, hpc,
      hx, hcg, hsb, hca, hr, hp]
  simpa only [pixelAgrees_iff, hsame, hpix] using h

/-- An idle state at rest meets the invariant. -/
theorem inv_of_idle (hm : s.memWf) (hr : s.run = .idle) (hpc : s.pc.val = 0) (hpix : s.pix = PixelLatch.empty) : Inv s where
  mem := hm
  idlePc _ := hpc
  idlePix _ := hpix
  busyNotDone hb := nomatch hr.symm.trans hb
  pixel := pixelAgrees_of_empty hpix

/-- The moves still to come are no part of it. -/
theorem inv_setTurns (h : Inv s) (ts : List Turn) : Inv (s.setTurns ts) :=
  ⟨h.mem, h.idlePc, h.idlePix, h.busyNotDone, pixelAgrees_congr h.pixel rfl rfl rfl rfl rfl rfl rfl rfl⟩

/-- The end of a raster step meets it, from any busy state with canonical memories and DONE 0. -/
theorem inv_endPixel (hm : s.memWf) (hr : s.run = .busy) (hd : s.done = false) : Inv s.endPixel := by
  by_cases h : s.pc.val + 1 < Config.npix
  · rw [State.endPixel_of_lt s h]
    exact ⟨hm, fun hi => (nomatch hr.symm.trans hi), fun _ => rfl, fun _ => hd, pixelAgrees_of_empty rfl⟩
  · rw [State.endPixel_of_last s h]
    exact inv_of_idle hm rfl rfl rfl

/-- A raster step keeps it. -/
theorem execStep_keeps_inv (h : Inv s) (ht : execStep s = .next t) : Inv t := by
  obtain ⟨-, rfl⟩ | ⟨hr, c, -, rfl⟩ := execStep_next ht
  · exact h
  · exact inv_endPixel (State.writeFB_memWf h.mem _ _) hr (h.busyNotDone hr)

/-- A stage turn keeps it. -/
theorem stageTurn_keeps_inv (h : Inv s) (ht : stageTurn exec s = .next t) : Inv t := by
  have hpix := stageTurn_keeps_pixelAgrees h.pixel ht
  obtain ⟨-, rfl⟩ | ⟨hr, -, rfl⟩ | ⟨hr, -, q, rfl⟩ := stageTurn_exec_next ht
  · exact h
  · exact inv_endPixel (State.writeFB_memWf h.mem _ _) hr (h.busyNotDone hr)
  · exact ⟨h.mem, h.idlePc, fun hi => (nomatch hr.symm.trans hi), h.busyNotDone, hpix⟩

/-- A host command keeps it. -/
theorem command_keeps_inv {w : BitVec 8} (h : Inv s) (ht : exec (decodeHc w) s = .next t) : Inv t := by
  have hf := decodeHc_format w
  generalize decodeHc w = i at hf ht
  cases exec_effect ht with
  | unchanged => exact h
  | pixel _ _ hi _ => exact absurd hi.2 (by rw [hf]; decide)
  | pal | step => exact absurd hf (by decide)
  | start => exact ⟨h.mem, nofun, fun _ => rfl, fun _ => rfl, pixelAgrees_of_empty rfl⟩
  | _ => exact ⟨h.mem, h.idlePc, h.idlePix, h.busyNotDone, pixelAgrees_congr h.pixel rfl rfl rfl rfl rfl rfl rfl rfl⟩

/-- An access of the host keeps it: what it writes, it writes while no pixel is in progress. -/
theorem hostAccess_keeps_inv {m : HostAccess} (h : Inv s) (ht : hostAccess m s = .next t) : Inv t := by
  obtain ⟨a, b, -, hr, rfl⟩ | ⟨a, b, -, hr, ha, rfl⟩ | ⟨a, b, -, hr, rfl⟩ | ⟨a, -, hr, -, rfl⟩ | ⟨-, rfl⟩ :=
    hostAccess_next ht
  · exact inv_of_idle (State.writeCG_memWf h.mem a b) hr (h.idlePc hr) (h.idlePix hr)
  · exact inv_of_idle (State.writeSB_memWf h.mem ha b) hr (h.idlePc hr) (h.idlePix hr)
  · exact inv_of_idle (State.writeCA_memWf h.mem a b) hr (h.idlePc hr) (h.idlePix hr)
  · exact inv_of_idle h.mem hr (h.idlePc hr) (h.idlePix hr)
  · exact inv_of_idle State.reset_memWf rfl rfl rfl

end Sys2Proof.Safety

namespace Sys2Proof.Proofs

open Sys2Proof.Machine Sys2Proof.Safety

/-! ### The statements of 10_state.md -/

/-- Settles O10, move by move: the raster step, the stage turn, the host's command and its access each keep `Inv`. -/
theorem stepKeepsTheInvariant : Obligations.StepKeepsTheInvariant := by
  intro s t h hst
  obtain ⟨-, ⟨-, ht⟩ | ⟨rest, -, ht⟩ | ⟨rest, -, ht⟩ | ⟨w, rest, -, ht⟩ | ⟨m, rest, -, ht⟩⟩ := step_next hst
  · exact execStep_keeps_inv h ht
  · exact execStep_keeps_inv (inv_setTurns h rest) ht
  · exact stageTurn_keeps_inv (inv_setTurns h rest) ht
  · exact command_keeps_inv (inv_setTurns h rest) ht
  · exact hostAccess_keeps_inv (inv_setTurns h rest) ht

/-- Settles O13: in each of the four ways `step_flags` leaves, a flag changes as the statement says or has not changed. -/
theorem runAndDoneChangeOnlySo : Obligations.RunAndDoneChangeOnlySo := by
  intro s t h
  obtain ⟨hr, hd⟩ | ⟨⟨w, rest, ign, hs, hw⟩, hi, hr, hd⟩ | ⟨he, hb, hpc, hr, hd⟩ | ⟨hs, hr, hd⟩ := step_flags h
  · rw [hr, hd]
    exact ⟨fun h h' => (nomatch h.symm.trans h'), fun h h' => (nomatch h.symm.trans h'),
      fun h h' => (nomatch h.symm.trans h'), fun h h' => (nomatch h.symm.trans h')⟩
  · exact ⟨fun _ _ => ⟨w, rest, ign, hs, hw⟩, fun _ h => (nomatch hd.symm.trans h), fun _ h => (nomatch hr.symm.trans h),
      fun _ _ => .inl ⟨w, rest, ign, hs, hw, hi⟩⟩
  · exact ⟨fun _ h => (nomatch hr.symm.trans h), fun _ _ => ⟨hb, hpc, hr, he⟩, fun _ _ => .inl ⟨hpc, hd, he⟩,
      fun _ h => (nomatch hd.symm.trans h)⟩
  · exact ⟨fun _ h => (nomatch hr.symm.trans h), fun _ h => (nomatch hd.symm.trans h), fun _ _ => .inr hs, fun _ _ => .inr hs⟩

/-- Settles O24, effect by effect: none reaches these fields. -/
theorem noInstructionWritesInputMemories : Obligations.NoInstructionWritesInputMemories := by
  intro i s t h
  cases exec_effect h <;> simp

/-- Settles O26, effect by effect: the writer of a register is the effect's own instruction. -/
theorem registersChangeOnlyByTheirWriters : Obligations.RegistersChangeOnlyByTheirWriters := by
  intro i s t h
  cases exec_effect h with
  | pixel _ q hi _ => obtain ⟨hp, hf | hf⟩ := hi <;> simp [hp, hf]
  | pal | step => simp [Instr.tableRow]
  | _ => simp

/-- Settles O8: power-up and the reset action give `State.afterReset`, whose fields are the stated ones. -/
theorem resetLeavesBlockIdle : Obligations.ResetLeavesBlockIdle := by
  have hidle : State.reset.statusWord = 0#4 := State.statusWord_of_idle rfl
  have hreset (s : State) : s.resetBlock.statusWord = 0#4 := State.statusWord_of_idle rfl
  exact ⟨⟨rfl, rfl, rfl, hidle, rfl, rfl, rfl, fun _ => ⟨rfl, rfl, rfl, rfl⟩⟩, fun s =>
    ⟨s.resetBlock, rfl, rfl, rfl, rfl, hreset s, rfl, rfl, rfl, rfl, rfl, rfl, fun _ => ⟨rfl, rfl, rfl, rfl⟩⟩⟩

/-- Settles O9: power-up is an idle state at rest. -/
theorem resetMeetsTheInvariant : Obligations.ResetMeetsTheInvariant :=
  inv_of_idle State.reset_memWf rfl rfl rfl

/-- Settles O21, by RUN: under the invariant DONE is 0 while BUSY. -/
theorem statusWordTellsRunAndDone : Obligations.StatusWordTellsRunAndDone := by
  refine fun s => ⟨s.statusWord_bits, fun hinv => ?_, fun _ => rfl⟩
  cases hr : s.run with
  | idle => rw [State.statusWord_of_idle hr]; cases s.done <;> decide
  | busy => exact .inr (.inl (State.statusWord_of_busy hr (hinv.busyNotDone hr)))

end Sys2Proof.Proofs

/-! PROOFS. Which turn a step makes, where the tile stages stop, and the statements on the platform, the surface and the
host's accesses (20_memory.md). -/

namespace Sys2Proof.Machine

variable {s t : State} {i : Instr}

/-! ### The turn a step makes -/

/-- A platform is ill-formed when a region is smaller than required (20_memory.md R66). -/
theorem platform_illFormed_iff (p : Config.Platform) :
    ¬ p.wellFormed = true ↔ p.cgBytes < 4096 ∨ p.sbBytes < 1000 ∨ p.caBytes < 1024 := by
  simp only [Config.Platform.wellFormed, Bool.and_eq_true, decide_eq_true_eq, Config.cgSize, Config.sbSize, Config.caSize]
  omega

/-- On an ill-formed platform no step is made. -/
theorem step_of_illFormed (h : ¬ s.platform.wellFormed = true) : step s = .refused .illFormedConfiguration := by
  rw [step, if_neg h]

section
variable {rest : List Turn} (hw : s.platform.wellFormed = true)
include hw

/-- Where the host makes an access of its own, the step is that access. -/
theorem step_of_access {m : HostAccess} (h : s.turns = .access m :: rest) : step s = hostAccess m (s.setTurns rest) := by
  rw [step, if_pos hw, h]

/-- Where the host presents a word, the step runs its instruction. -/
theorem step_of_command {w : BitVec 8} (h : s.turns = .command w :: rest) :
    step s = exec (decodeHc w) (s.setTurns rest) := by
  rw [step, if_pos hw, h]

end

/-! ### The platform stays (log 25) -/

theorem exec_platform (h : exec i s = .next t) : t.platform = s.platform := by
  obtain ⟨-, -, -, -, hp, -, -⟩ := Proofs.noInstructionWritesInputMemories i s t h
  exact hp

theorem stageTurn_platform (h : stageTurn exec s = .next t) : t.platform = s.platform := by
  obtain ⟨-, rfl⟩ | ⟨-, -, rfl⟩ | ⟨-, -, q, rfl⟩ := stageTurn_exec_next h
  · rfl
  · rw [State.endPixel_platform, State.writeFB_platform]
  · rfl

theorem hostAccess_platform {m : HostAccess} (h : hostAccess m s = .next t) : t.platform = s.platform := by
  obtain ⟨a, b, -, -, rfl⟩ | ⟨a, b, -, -, -, rfl⟩ | ⟨a, b, -, -, rfl⟩ | ⟨a, -, -, -, rfl⟩ | ⟨-, rfl⟩ :=
    hostAccess_next h <;> rfl

theorem step_platform (h : step s = .next t) : t.platform = s.platform := by
  obtain ⟨-, ⟨-, h⟩ | ⟨rest, -, h⟩ | ⟨rest, -, h⟩ | ⟨w, rest, -, h⟩ | ⟨m, rest, -, h⟩⟩ := step_next h
  · exact exec_platform h
  · exact exec_platform (s := s.setTurns rest) h
  · exact stageTurn_platform (s := s.setTurns rest) h
  · exact exec_platform (s := s.setTurns rest) h
  · exact hostAccess_platform (s := s.setTurns rest) h

/-! ### The tile stages of a visible pixel -/

/-- A byte with high bits is refused where ATTR_HI_POLICY says so (30_encoding.md R84). -/
theorem attrForeground_refuse {a : Byte} (h : a.extractLsb' 4 4 ≠ 0#4) :
    attrForeground .refuse a = .error (.refusal .attributeHighBits) := if_neg h

/-- Addresses from 1000 on do not exist in SB (20_memory.md R52). -/
theorem readSB_absent {a : BitVec 10} (h : 1000 ≤ a.toNat) : readSB s a = .error (.fault .absentAddress) :=
  if_neg (Nat.not_lt.2 h)

section
variable (h : s.pix.inb = 0#1)
include h

/-- TILE of a visible pixel splits its coordinate, or stops where that has no tile. -/
theorem execTile_of_visible :
    execTile s = if insideVisible s.pix.lx s.pix.ly then
      .next (s.setPix { s.pix with tile := tileSplit s.pix.lx s.pix.ly }) else .fault .tileOutside := by
  rw [execTile, if_pos (by simpa using h)]

/-- SCODE of a visible pixel is its read of SB. -/
theorem execScode_of_visible :
    execScode s = withValue (readSB s s.pix.tile.index) fun g => .next (s.setPix { s.pix with g := g }) := by
  rw [execScode, if_pos (by simpa using h)]

/-- ATTR of a visible pixel is its read of CA, if the platform takes the byte. -/
theorem execAttr_of_visible :
    execAttr s = withValue (attrForeground s.platform.attrHi (readCA s s.pix.tile.index)) fun fg =>
      .next (s.setPix { s.pix with a := readCA s s.pix.tile.index, fg := fg }) := by
  rw [execAttr, if_pos (by simpa using h)]

end

/-! ### The host's accesses and its words -/

/-- The accesses that 20_memory.md R65 allows only while IDLE: writes to the input memories, and reads of FB. -/
def NeedsIdle : HostAccess → Prop
  | .setCG _ _ | .setSB _ _ | .setCA _ _ | .getFB _ => True
  | .reset | .resize _ _ _ => False

/-- While BUSY such an access is refused, at every address (log 14). -/
theorem hostAccess_of_busy {m : HostAccess} (hm : NeedsIdle m) (h : s.run = .busy) :
    hostAccess m s = .refused .hostAccessDuringFrame := by
  cases m with
  | reset | resize => exact hm.elim
  | setCG | setSB | setCA | getFB => exact whenIdle_of_busy h _

/-- The words 0x80 to 0xCF are writes to slots 0 to 4, the pending registers (30_encoding.md R87). -/
theorem pendingWord_fields {w : BitVec 8} (hlo : 0x80 ≤ w.toNat) (hhi : w.toNat < 0xD0) :
    w.getLsbD 7 = true ∧ (w.extractLsb' 4 3).toNat < 5 := by
  constructor
  · rw [← BitVec.msb_eq_getLsbD_last, BitVec.msb_eq_decide]
    simpa using hlo
  · rw [BitVec.extractLsb'_toNat, Nat.shiftRight_eq_div_pow]
    omega

/-- A host word 0x80 to 0xCF sets pending registers and their record, and nothing else, in either run state. -/
theorem exec_pendingWord {w : BitVec 8} (hlo : 0x80 ≤ w.toNat) (hhi : w.toNat < 0xD0) (s : State) :
    ∃ p pw, exec (decodeHc w) s = .next (s.setPending p pw) := by
  obtain ⟨hwe, hslot⟩ := pendingWord_fields hlo hhi
  simp only [decodeHc, hwe]
  generalize w.extractLsb' 4 3 = a at hslot
  obtain rfl | rfl | rfl | rfl | rfl : a = 0#3 ∨ a = 1#3 ∨ a = 2#3 ∨ a = 3#3 ∨ a = 4#3 := by
    revert a; decide
  all_goals exact ⟨_, _, rfl⟩

end Sys2Proof.Machine

namespace Sys2Proof.Proofs

open Sys2Proof.Machine

/-! ### The statements of 20_memory.md -/

/-- Settles O6: an ill-formed platform and a resize are refused, and no turn that a step can make sets the platform. -/
theorem platformIsFixedAndChecked : Obligations.PlatformIsFixedAndChecked :=
  ⟨fun s h => step_of_illFormed ((platform_illFormed_iff s.platform).2 h),
    fun _ _ _ _ _ hw h => step_of_access hw h, fun _ _ h => step_platform h⟩

/-- Settles O25, effect by effect: only those of PAL and STEP reach the surface, by one write at pc. -/
theorem onlyPalAndStepWriteTheSurface : Obligations.OnlyPalAndStepWriteTheSurface := by
  intro i s t h
  cases exec_effect h with
  | pal => exact ⟨fun hp => absurd rfl hp, fun a ha => memRead_memWrite_other _ _ ha⟩
  | step c =>
    refine ⟨fun _ hs => absurd rfl hs, fun a ha => ?_⟩
    rw [State.endPixel_fb, State.writeFB_fb, memRead_memWrite_other _ _ ha]
  | _ => exact ⟨fun _ _ => rfl, fun _ _ => rfl⟩

/-- Settles O33: a visible pixel's stage stops where the byte or address it needs is refused or absent. -/
theorem fetchStagesStopWhere : Obligations.FetchStagesStopWhere := by
  refine fun s hb => ⟨fun hp ha => ?_, fun hi => ?_, fun hout => ?_⟩
  · change execAttr s = _
    rw [execAttr_of_visible hb, hp, attrForeground_refuse (a := readCA s s.pix.tile.index) ha]
    rfl
  · change execScode s = _
    rw [execScode_of_visible hb, readSB_absent hi]
    rfl
  · change execTile s = _
    rw [execTile_of_visible hb, if_neg ((insideVisible_iff _ _).not.2 hout)]

/-- Settles O52: a step makes the host's move, which RUN refuses to the accesses and not to the WR words. -/
theorem hostAccessDuringFrameIsRefused : Obligations.HostAccessDuringFrameIsRefused := by
  intro s rest hw hr
  have hrefused (m : HostAccess) (hm : NeedsIdle m) (h : s.turns = .access m :: rest) :
      step s = .refused .hostAccessDuringFrame :=
    (step_of_access hw h).trans (hostAccess_of_busy hm hr)
  refine ⟨fun a b => hrefused _ trivial, fun a b => hrefused _ trivial, fun a b => hrefused _ trivial,
    fun a => hrefused _ trivial, fun w hlo hhi h => ?_⟩
  obtain ⟨p, pw, he⟩ := exec_pendingWord hlo hhi (s.setTurns rest)
  exact ⟨_, (step_of_command hw h).trans he, rfl⟩

/-- Settles O53: while IDLE a SET is one memory write, if its address exists. -/
theorem hostWritesAreSeen : Obligations.HostWritesAreSeen := by
  refine fun s hr => ⟨fun a b => ?_, fun a b ha => ?_, fun a b => ?_, fun a b ha => ?_⟩
  · exact ⟨_, whenIdle_of_idle hr _, fun k => memRead_memWrite s.cg a.toNat k b⟩
  · exact ⟨_, (whenIdle_of_idle hr _).trans (if_pos ha), fun k => memRead_memWrite s.sb a.toNat k b⟩
  · exact ⟨_, whenIdle_of_idle hr _, fun k => memRead_memWrite s.ca a.toNat k b⟩
  · exact (whenIdle_of_idle hr _).trans (if_neg (Nat.not_lt.2 ha))

end Sys2Proof.Proofs

/-! PROOFS. The nine forms of a host word and the rows its patterns stand for, one stage of the pixel in progress against
the raster step, and the statements on encodings and on the nine stages (30_encoding.md). -/

namespace Sys2Proof

variable {i : Instr} {w : BitVec 8}

/-! ### The fields of a host word -/

section
variable (we : BitVec 1) (a : BitVec 3) (d : BitVec 4)

theorem hcWord_we : (we ++ a ++ d).getLsbD 7 = we.getLsbD 0 := by
  rw [BitVec.getLsbD_append, BitVec.getLsbD_append]; rfl

theorem hcWord_slot : (we ++ a ++ d).extractLsb' 4 3 = a := by
  rw [BitVec.extractLsb'_append_eq_ite]; exact BitVec.extractLsb'_append_eq_right

theorem hcWord_data : (we ++ a ++ d).extractLsb' 0 4 = d := BitVec.extractLsb'_append_eq_right

end

section
variable (ign : BitVec 3) (m : BitVec 1)

theorem hcData_bit0 : (ign ++ m).getLsbD 0 = m.getLsbD 0 := by
  rw [BitVec.getLsbD_append]; rfl

theorem hcData_high : (ign ++ m).extractLsb' 1 3 = ign := BitVec.extractLsb'_append_eq_left

theorem hcData_low : (ign ++ m).extractLsb' 0 1 = m := BitVec.extractLsb'_append_eq_right

end

/-- A word is a high field and a low one. -/
theorem append_fields {n k : Nat} (w : BitVec (n + k)) : ∃ (hi : BitVec n) (lo : BitVec k), w = hi ++ lo := by
  have hw : w.extractLsb' k n ++ w.extractLsb' 0 k = w.extractLsb' 0 (n + k) :=
    BitVec.extractLsb'_append_extractLsb'_eq_extractLsb' (Nat.zero_add k).symm
  exact ⟨_, _, (hw.trans BitVec.extractLsb'_eq_self).symm⟩

/-- A host word is `we`, the slot, and the data. -/
theorem hcWord_fields (w : BitVec 8) : ∃ (we : BitVec 1) (a : BitVec 3) (d : BitVec 4), w = we ++ a ++ d := by
  obtain ⟨high, d, rfl⟩ := append_fields (n := 4) (k := 4) w
  obtain ⟨we, a, rfl⟩ := append_fields (n := 1) (k := 3) high
  exact ⟨we, a, d, rfl⟩

/-! ### The forms of a host word -/

/-- The patterns of 30_encoding.md R87, field by field: the word of each host command. -/
inductive HostWord : Instr → BitVec 8 → Prop where
  | wrBorder (c : Color) : HostWord (.wrBorder c) (1#1 ++ 0#3 ++ c)
  | wrBg0 (c : Color) : HostWord (.wrBg0 c) (1#1 ++ 1#3 ++ c)
  | wrBg1 (c : Color) : HostWord (.wrBg1 c) (1#1 ++ 2#3 ++ c)
  | wrBg2 (c : Color) : HostWord (.wrBg2 c) (1#1 ++ 3#3 ++ c)
  | wrMode (d : BitVec 4) (ign : BitVec 3) (m : BitVec 1) (hd : d = ign ++ m) :
      HostWord (.wrMode ign m) (1#1 ++ 4#3 ++ d)
  | start (d : BitVec 4) (ign : BitVec 3) (hd : d = ign ++ 1#1) : HostWord (.start ign) (1#1 ++ 5#3 ++ d)
  | ctrlNop (d : BitVec 4) (ign : BitVec 3) (hd : d = ign ++ 0#1) : HostWord (.ctrlNop ign) (1#1 ++ 5#3 ++ d)
  | wrRsvd (a : BitVec 3) (d : BitVec 4) (ha : a = 6#3 ∨ a = 7#3) : HostWord (.wrRsvd a d) (1#1 ++ a ++ d)
  | rd (a : BitVec 3) (ign : BitVec 4) : HostWord (.rd a ign) (0#1 ++ a ++ ign)

/-- Every host word has one of the forms. -/
theorem hostWord_exists (w : BitVec 8) : ∃ i, HostWord i w := by
  obtain ⟨we, a, d, rfl⟩ := hcWord_fields w
  obtain ⟨ign, m, hd⟩ := append_fields (n := 3) (k := 1) d
  obtain rfl | rfl := Machine.bit_cases we
  · exact ⟨_, .rd a d⟩
  · have hslot : a = 0#3 ∨ a = 1#3 ∨ a = 2#3 ∨ a = 3#3 ∨ a = 4#3 ∨ a = 5#3 ∨ a = 6#3 ∨ a = 7#3 := by
      revert a; decide
    obtain rfl | rfl | rfl | rfl | rfl | rfl | ha := hslot
    · exact ⟨_, .wrBorder d⟩
    · exact ⟨_, .wrBg0 d⟩
    · exact ⟨_, .wrBg1 d⟩
    · exact ⟨_, .wrBg2 d⟩
    · exact ⟨_, .wrMode d ign m hd⟩
    · obtain rfl | rfl := Machine.bit_cases m
      · exact ⟨_, .ctrlNop d ign hd⟩
      · exact ⟨_, .start d ign hd⟩
    · exact ⟨_, .wrRsvd a d ha⟩

/-- A word of a form decodes to its instruction. -/
theorem decodeHc_of_hostWord (h : HostWord i w) : decodeHc w = i := by
  cases h <;> simp only [decodeHc, hcWord_we, hcWord_slot, hcWord_data]
  case wrMode d ign m hd => rw [hd, hcData_high, hcData_low]; rfl
  case start d ign hd => rw [hd, hcData_bit0, hcData_high]; rfl
  case ctrlNop d ign hd => rw [hd, hcData_bit0, hcData_high]; rfl
  case wrRsvd a d ha => obtain rfl | rfl := ha <;> rfl
  all_goals rfl

/-- A host word has the form of the instruction it decodes to. -/
theorem hostWord_decodeHc (w : BitVec 8) : HostWord (decodeHc w) w := by
  obtain ⟨i, h⟩ := hostWord_exists w
  rwa [decodeHc_of_hostWord h]

/-- A host command is encoded by the word of its form. -/
theorem encode_of_hostWord (h : HostWord i w) : encode i = .hc w := by
  cases h with
  | wrMode d ign m hd => subst hd; exact congrArg Code.hc BitVec.append_assoc
  | start d ign hd => subst hd; exact congrArg Code.hc BitVec.append_assoc
  | ctrlNop d ign hd => subst hd; exact congrArg Code.hc BitVec.append_assoc
  | _ => rfl

/-- An instruction with a form has an encoding. -/
theorem wellFormed_of_hostWord (h : HostWord i w) : i.wellFormed = true := by
  cases h with
  | wrRsvd a d ha => simpa [Instr.wellFormed] using ha
  | _ => rfl

/-- A well-formed host command has a form. -/
theorem hostWord_of_wellFormed (h : i.wellFormed = true) (hf : i.tableRow.format = .hc) : ∃ w, HostWord i w := by
  cases i with
  | wrBorder c => exact ⟨_, .wrBorder c⟩
  | wrBg0 c => exact ⟨_, .wrBg0 c⟩
  | wrBg1 c => exact ⟨_, .wrBg1 c⟩
  | wrBg2 c => exact ⟨_, .wrBg2 c⟩
  | wrMode ign m => exact ⟨_, .wrMode _ ign m rfl⟩
  | start ign => exact ⟨_, .start _ ign rfl⟩
  | ctrlNop ign => exact ⟨_, .ctrlNop _ ign rfl⟩
  | wrRsvd a d => exact ⟨_, .wrRsvd a d (by simpa [Instr.wellFormed] using h)⟩
  | rd a ign => exact ⟨_, .rd a ign⟩
  | _ => exact nomatch hf

/-! ### The rows of the host words -/

/-- The two rows' patterns ask for different values of a bit that both of them fix. -/
abbrev TableRow.Excludes (r r' : TableRow) : Prop := r.matchBits &&& r'.maskBits ≠ r'.matchBits &&& r.maskBits

/-- No word matches two rows that exclude each other. -/
theorem TableRow.not_accepts_both {r r' : TableRow} {n : Nat} (h : r.Excludes r') (hr : r.accepts n = true)
    (hr' : r'.accepts n = true) : False := by
  simp only [accepts, beq_iff_eq] at hr hr'
  apply h
  rw [← hr, ← hr', Nat.and_assoc, Nat.and_assoc, Nat.and_comm r.maskBits]

/-- Where rows exclude each other, a word that one of them matches is matched by that one only. -/
theorem TableRow.filter_accepts {rows : List TableRow} {r : TableRow} {n : Nat} (hex : rows.Pairwise TableRow.Excludes)
    (hr : r ∈ rows) (ha : r.accepts n = true) : rows.filter (fun r => r.accepts n) = [r] := by
  have hmem : r ∈ rows.filter (fun r => r.accepts n) := List.mem_filter.2 ⟨hr, ha⟩
  have hall (q : TableRow) (hq : q ∈ rows.filter (fun r => r.accepts n)) : q.accepts n = true := (List.mem_filter.1 hq).2
  have hpair := hex.filter (fun r => r.accepts n)
  generalize rows.filter (fun r => r.accepts n) = matched at hmem hall hpair ⊢
  match matched with
  | [] => exact nomatch hmem
  | [q] => rw [List.mem_singleton.1 hmem]
  | q :: q' :: qs =>
    exact (not_accepts_both (List.rel_of_pairwise_cons hpair (by simp)) (hall q (by simp)) (hall q' (by simp))).elim

/-- The nine HC rows exclude each other. -/
theorem hcRows_exclude : hcRows.Pairwise TableRow.Excludes := by decide

/-- The row of a host command is one of the nine. -/
theorem row_mem_of_hostWord (h : HostWord i w) : i.tableRow ∈ hcRows := by
  cases h <;> simp [hcRows, Instr.tableRow]

/-- The word of a host command matches its row. -/
theorem row_accepts_of_hostWord (h : HostWord i w) : i.tableRow.accepts w.toNat = true := by
  have hi : Laws.TablePattern.Statement i := by
    cases h with
    | wrBorder c => exact Laws.TablePattern.wrBorder c
    | wrBg0 c => exact Laws.TablePattern.wrBg0 c
    | wrBg1 c => exact Laws.TablePattern.wrBg1 c
    | wrBg2 c => exact Laws.TablePattern.wrBg2 c
    | wrMode _ ign m => exact Laws.TablePattern.wrMode ign m
    | start _ ign => exact Laws.TablePattern.start ign
    | ctrlNop _ ign => exact Laws.TablePattern.ctrlNop ign
    | wrRsvd a d => exact Laws.TablePattern.wrRsvd a d
    | rd a ign => exact Laws.TablePattern.rd a ign
  obtain ⟨-, ha⟩ := hi (wellFormed_of_hostWord h)
  rwa [encode_of_hostWord h] at ha

end Sys2Proof

namespace Sys2Proof.Machine

variable {s t : State} {i : Instr}

/-! ### The raster step and the pixel function -/

/-- What the pixel function answers at the raster position. -/
abbrev pixelAtPc (s : State) : Except Stop Color := pixelIndex s (coordX s.pc) (coordY s.pc)

@[simp] theorem pixelAtPc_setTurns (s : State) (ts : List Turn) : pixelAtPc (s.setTurns ts) = pixelAtPc s :=
  pixelIndex_congr rfl rfl rfl rfl rfl rfl _ _

@[simp] theorem pixelAtPc_setPix (s : State) (q : PixelLatch) : pixelAtPc (s.setPix q) = pixelAtPc s :=
  pixelIndex_congr rfl rfl rfl rfl rfl rfl _ _

/-- While BUSY the raster step is the pixel function's answer at pc: its record written, or its stop. -/
theorem execStep_of_busy (hr : s.run = .busy) :
    execStep s = withValue (pixelAtPc s) fun c => .next (s.writeFB s.pc (recordOf c)).endPixel := by
  simp only [execStep, hr, drawAt, pixelRecord, pixelAtPc]
  cases pixelIndex s (coordX s.pc) (coordY s.pc) <;> rfl

/-- The end of a raster step drops the pixel in progress. -/
theorem State.endPixel_setPix (s : State) (q : PixelLatch) : (s.setPix q).endPixel = s.endPixel := by
  by_cases h : s.pc.val + 1 < Config.npix
  · rw [State.endPixel_of_lt s h, State.endPixel_of_lt (s.setPix q) h]; rfl
  · rw [State.endPixel_of_last s h, State.endPixel_of_last (s.setPix q) h]; rfl

/-- The raster step does not look at the pixel in progress. -/
theorem execStep_setPix (hr : s.run = .busy) (q : PixelLatch) : execStep (s.setPix q) = execStep s := by
  rw [execStep_of_busy hr, execStep_of_busy (s := s.setPix q) hr, pixelAtPc_setPix]
  cases pixelAtPc s with
  | error e => rfl
  | ok c => exact congrArg Host.Outcome.next (State.endPixel_setPix (s.writeFB s.pc (recordOf c)) q)

/-! ### The stage turn of a busy block -/

/-- While BUSY a stage turn at the last position writes the pixel's record and ends the raster step. -/
theorem stageTurn_of_pal (hr : s.run = .busy) (hp : s.pix.slot = .pal) :
    stageTurn exec s = .next (s.writeFB s.pc (recordOf s.pix.idx)).endPixel := by
  rw [stageTurn_of_ok hr (decode_stageCode_pal hp)]
  exact congrArg Host.Outcome.next (State.afterStage_of_pal hp)

/-- While BUSY a stage turn before the last position, with a next state, leaves the pixel at the next position. -/
theorem stageTurn_of_ne_pal (hr : s.run = .busy) (hp : s.pix.slot ≠ .pal) (h : stageTurn exec s = .next t) :
    ∃ q : PixelLatch, q.slot = nextSlot s.pix.slot ∧ t = s.setPix q := by
  obtain ⟨hi, -⟩ | ⟨-, i, u, hi, hu, rfl⟩ | ⟨-, -, rfl⟩ := stageTurn_next h
  · exact nomatch hr.symm.trans hi
  · obtain ⟨q, hq, rfl⟩ := exec_ofPixel_next (decode_stageCode_ofPixel hp hi) hu
    exact ⟨_, congrArg nextSlot hq, State.afterStage_of_ne_pal (hq ▸ hp)⟩
  · exact ⟨_, rfl, State.afterStage_of_ne_pal hp⟩

/-- Where the platform is well-formed, a stage turn at the head of the moves is made. -/
theorem step_of_stage {rest : List Turn} (hw : s.platform.wellFormed = true) (h : s.turns = .stage :: rest) :
    step s = stageTurn exec (s.setTurns rest) := by
  rw [step, if_pos hw, h]

/-- A run whose first step stops is that stop. -/
theorem run_succ_of_stop (n : Nat) {e : Stop} (h : step s = e.answer) :
    Host.Core.run Sys2Proof.core (n + 1) s = e.answer := by
  cases e with
  | fault r => exact run_succ_of_fault n h
  | refusal r => exact run_succ_of_refused n h

/-- A hires value has its high bit 0 (42_unpack.md R135). -/
theorem unpackHires_cases (b : Byte) (wc : BitVec 3) : unpackHires b wc = 0#2 ∨ unpackHires b wc = 1#2 := by
  unfold unpackHires
  rw [BitVec.and_one_eq_setWidth_ofBool_getLsbD]
  cases (b >>> (7 - wc.toNat)).getLsbD 0
  · exact .inl rfl
  · exact .inr rfl

end Sys2Proof.Machine

namespace Sys2Proof.Safety

open Sys2Proof.Machine

variable {s t u : State} {i : Instr}

/-! ### Where the stages of a pixel stop -/

/-- A visible pixel behind the border test has the logical coordinate of pc, in the visible area. -/
theorem visible_of_agrees (h : PixelAgrees s) (h2 : 2 ≤ slotNumber s.pix.slot) (hb : s.pix.inb = 0#1) :
    s.pix.lx = logicalX (coordX s.pc) ∧ s.pix.ly = logicalY (coordY s.pc) ∧
      insideVisible (logicalX (coordX s.pc)) (logicalY (coordY s.pc)) = true := by
  obtain ⟨hlx, hly⟩ := h.logical (Nat.le_of_lt h2)
  refine ⟨hlx, hly, ?_⟩
  rw [← borderBit_eq_zero_iff, ← hlx, ← hly, ← h.border h2, hb]

/-- Behind the tile split it has the tile of that coordinate, one that exists. -/
theorem tile_of_agrees (h : PixelAgrees s) (h3 : 3 ≤ slotNumber s.pix.slot) (hb : s.pix.inb = 0#1) :
    s.pix.tile = tileSplit (logicalX (coordX s.pc)) (logicalY (coordY s.pc)) ∧
      s.pix.tile.index.toNat < Config.sbSize := by
  obtain ⟨hlx, hly, hin⟩ := visible_of_agrees h (Nat.le_of_lt h3) hb
  have ht := h.tile h3 hb
  rw [hlx, hly] at ht
  refine ⟨ht, ?_⟩
  obtain ⟨-, -, -, -, hidx⟩ := tileSplit_toNat hin
  obtain ⟨-, hx, -, hy⟩ := (insideVisible_iff _ _).1 hin
  rw [ht, hidx, Config.sbSize]
  omega

/-- The selector word assembled from an agreeing pixel is not a reserved one (30_encoding.md R91). -/
theorem decodeSel_of_agrees (h : PixelAgrees s) (hs : s.pix.slot = .select) : ∃ i, decodeSel s.selWord = .ok i := by
  rw [State.selWord, decodeSel_selectorWord]
  by_cases hb : s.pix.inb = 1#1
  · exact ⟨_, if_pos hb⟩
  by_cases hm : s.x.mode = 0#1
  · have hv := h.value (hs ▸ by decide) ((bit_cases _).resolve_right hb)
    rw [if_pos hm] at hv
    rw [if_neg hb, if_pos hm, hv]
    obtain h0 | h1 := unpackHires_cases s.pix.b s.pix.tile.wc
    · exact ⟨_, (if_neg (by rw [h0]; decide)).trans (if_pos h0)⟩
    · exact ⟨_, if_pos h1⟩
  · rw [if_neg hb, if_neg hm]
    split_ifs <;> exact ⟨_, rfl⟩

/-- A stage of an agreeing pixel decodes, or is passed over. -/
theorem decode_of_agrees (h : PixelAgrees s) :
    (∃ i, decode s.stageCode = .ok i) ∨ decode s.stageCode = .error .stageSkipped := by
  rw [decode_stageCode]
  cases hs : s.pix.slot with
  | select => exact .inl (decodeSel_of_agrees h hs)
  | lcoord | border | pal => exact .inl ⟨_, rfl⟩
  | tile | scode | grow | attr | unpack =>
    simp only [reduceCtorEq, if_false, decodeStage]
    split_ifs <;> simp

/-- The stage decoded for an agreeing pixel goes on, or stops as the pixel function does: TILE and SCODE have the tile they
need, and ATTR is where a byte of CA is refused. -/
theorem exec_of_agrees (h : PixelAgrees s) (hd : decode s.stageCode = .ok i) :
    (∃ u, exec i s = .next u) ∨ ∃ e, pixelAtPc s = .error e ∧ exec i s = e.answer := by
  rw [decode_stageCode] at hd
  cases hs : s.pix.slot <;>
    simp only [hs, reduceCtorEq, if_false, if_true, decodeStage, stageWord_bit1, stageWord_bit0, decide_eq_true_eq] at hd
  case lcoord => cases hd; exact .inl ⟨_, rfl⟩
  case border => cases hd; exact .inl ⟨_, rfl⟩
  case pal => cases hd; exact .inl ⟨_, rfl⟩
  case select => exact .inl ⟨_, exec_of_decodeSel hd⟩
  case tile =>
    split_ifs at hd with hb; cases hd
    rw [not_not] at hb
    obtain ⟨hlx, hly, hin⟩ := visible_of_agrees h (hs ▸ by decide) hb
    rw [← hlx, ← hly] at hin
    exact .inl ⟨_, (execTile_of_visible hb).trans (if_pos hin)⟩
  case scode =>
    split_ifs at hd with hb; cases hd
    rw [not_not] at hb
    obtain ⟨-, hidx⟩ := tile_of_agrees h (hs ▸ by decide) hb
    have hx : exec .scode s = _ := execScode_of_visible hb
    rw [hx, readSB, if_pos hidx]
    exact .inl ⟨_, rfl⟩
  case grow =>
    split_ifs at hd with hb; cases hd
    exact .inl ⟨_, if_pos (by simpa using hb)⟩
  case attr =>
    split_ifs at hd with hb; cases hd
    rw [not_not] at hb
    obtain ⟨-, -, hin⟩ := visible_of_agrees h (hs ▸ by decide) hb
    obtain ⟨ht, -⟩ := tile_of_agrees h (hs ▸ by decide) hb
    have hx : exec .attr s = _ := execAttr_of_visible hb
    rw [hx, pixelAtPc, pixelIndex_visible hin, ← ht]
    dsimp only
    cases attrForeground s.platform.attrHi (readCA s s.pix.tile.index) with
    | ok fg => exact .inl ⟨_, rfl⟩
    | error e => exact .inr ⟨e, rfl, rfl⟩
  case unpack =>
    split_ifs at hd with hb hm <;> cases hd
    · exact .inl ⟨_, if_pos (by simpa using ⟨not_not.1 hb, (bit_cases _).resolve_left hm⟩)⟩
    · exact .inl ⟨_, if_pos (by simpa using ⟨not_not.1 hb, not_not.1 hm⟩)⟩

/-- A stage turn of an agreeing pixel goes on, or stops as the pixel function does. -/
theorem stageTurn_of_agrees (h : PixelAgrees s) (hr : s.run = .busy) :
    (∃ t, stageTurn exec s = .next t) ∨ ∃ e, pixelAtPc s = .error e ∧ stageTurn exec s = e.answer := by
  obtain ⟨i, hd⟩ | hd := decode_of_agrees h
  · rw [stageTurn_of_ok hr hd]
    obtain ⟨u, hu⟩ | ⟨e, he, hu⟩ := exec_of_agrees h hd
    · exact .inl ⟨_, by rw [hu, mapNext_next]⟩
    · exact .inr ⟨e, he, by rw [hu]; cases e <;> rfl⟩
  · exact .inl ⟨_, stageTurn_of_skip hr hd⟩

/-! ### The stages left of a pixel are one raster step -/

/-- From a busy state whose pixel agrees, the stages it has left give what the raster step gives. -/
theorem run_stages {rest : List Turn} {n : Nat} (hw : s.platform.wellFormed = true) (hr : s.run = .busy)
    (h : PixelAgrees s) (hn : slotNumber s.pix.slot + n = slotNumber .pal)
    (hts : s.turns = List.replicate (n + 1) .stage ++ rest) :
    Host.Core.run Sys2Proof.core (n + 1) s = execStep (s.setTurns rest) := by
  induction n generalizing s with
  | zero =>
    have hp : s.pix.slot = .pal := slotNumber_injective hn
    have hstep := (step_of_stage hw hts).trans (stageTurn_of_pal (s := s.setTurns rest) hr hp)
    have hidx : pixelAtPc s = .ok s.pix.idx := h.index (hp ▸ by decide)
    rw [execStep_of_busy (s := s.setTurns rest) hr, pixelAtPc_setTurns, hidx]
    exact run_one_of_step hstep
  | succ n ih =>
    have hp : s.pix.slot ≠ .pal := fun hp => by rw [hp] at hn; omega
    obtain ⟨left, hleft⟩ : ∃ left, left = List.replicate (n + 1) .stage ++ rest := ⟨_, rfl⟩
    have hstep : step s = stageTurn exec (s.setTurns left) := step_of_stage hw (hleft ▸ hts)
    have hu : PixelAgrees (s.setTurns left) := pixelAgrees_congr h rfl rfl rfl rfl rfl rfl rfl rfl
    obtain ⟨t, ht⟩ | ⟨e, he, ht⟩ := stageTurn_of_agrees hu hr
    · obtain ⟨q, hq, rfl⟩ := stageTurn_of_ne_pal (s := s.setTurns left) hr hp ht
      have hq' : slotNumber q.slot + n = slotNumber .pal := by
        rw [hq, State.setTurns_pix, slotNumber_nextSlot hp]; omega
      have hleft_run := ih (s := (s.setTurns left).setPix q) hw hr (stageTurn_keeps_pixelAgrees hu ht) hq' hleft
      have hraster : execStep ((s.setTurns rest).setPix q) = execStep (s.setTurns rest) :=
        execStep_setPix (s := s.setTurns rest) hr q
      exact (run_succ_of_next (n + 1) (hstep.trans ht)).trans (hleft_run.trans hraster)
    · rw [pixelAtPc_setTurns] at he
      rw [execStep_of_busy (s := s.setTurns rest) hr, pixelAtPc_setTurns, he]
      exact run_succ_of_stop (n + 1) (hstep.trans ht)

end Sys2Proof.Safety

namespace Sys2Proof.Proofs

open Sys2Proof.Machine Sys2Proof.Safety

/-! ### The statements of 30_encoding.md -/

/-- Settles O1, by format: a host command decodes from the fields of its word; the STAGE and SEL words and the raster
step have no operand. -/
theorem decodeInvertsEncode : Obligations.DecodeInvertsEncode := by
  intro i hi
  by_cases hf : i.tableRow.format = .hc
  · obtain ⟨w, hw⟩ := hostWord_of_wellFormed hi hf
    rw [encode_of_hostWord hw, decode, decodeHc_of_hostWord hw]
  · cases i with
    | wrBorder | wrBg0 | wrBg1 | wrBg2 | wrMode | start | ctrlNop | wrRsvd | rd => exact absurd rfl hf
    | _ => rfl

/-- Settles O50: with no pixel in progress all nine stages are left, and nothing is asked of their values. -/
theorem nineStagesAreOneRasterStep : Obligations.NineStagesAreOneRasterStep := by
  intro s rest hw hr hp hts
  exact run_stages hw hr (pixelAgrees_of_empty hp) (by rw [hp]; rfl) hts

/-- Settles O2: a word has the form of its instruction, whose row matches it, and the nine rows exclude each other. -/
theorem hostWordsDecodeOneWay : Obligations.HostWordsDecodeOneWay := fun w =>
  have hw := hostWord_decodeHc w
  ⟨wellFormed_of_hostWord hw, encode_of_hostWord hw,
    TableRow.filter_accepts hcRows_exclude (row_mem_of_hostWord hw) (row_accepts_of_hostWord hw)⟩

/-- Settles O3, word by word. -/
theorem writtenOutWordsDecode : Obligations.WrittenOutWordsDecode := by
  refine ⟨?_, ?_, ?_, ?_, ?_, ?_, ?_, ?_, ?_, ?_⟩ <;> decide

end Sys2Proof.Proofs

/-! PROOFS. The logical coordinate in numbers, the operations whose STAGE condition fails, and the statements on the
border detector (40_border_detect.md). -/

namespace Sys2Proof.Machine

variable {s : State}

/-! ### The logical coordinate -/

/-- The column is lx + 32, with no wrap-around (40_border_detect.md R110). -/
theorem logicalX_add (x : Nat) : logicalX x + 32 = x := Int.sub_add_cancel _ _

/-- The line is ly + 36. -/
theorem logicalY_add (y : Nat) : logicalY y + 36 = y := Int.sub_add_cancel _ _

/-- BORDER's bit is 0 exactly in the half-open area of R111. -/
theorem borderBit_eq_zero_iff_range (lx ly : Int) : borderBit lx ly = 0#1 ↔ 0 ≤ lx ∧ lx < 320 ∧ 0 ≤ ly ∧ ly < 200 :=
  (borderBit_eq_zero_iff lx ly).trans (insideVisible_iff lx ly)

/-- The same area in output coordinates. -/
theorem borderBit_logical_eq_zero_iff (x y : Nat) :
    borderBit (logicalX x) (logicalY y) = 0#1 ↔ 32 ≤ x ∧ x ≤ 351 ∧ 36 ≤ y ∧ y ≤ 235 := by
  rw [borderBit_eq_zero_iff, insideVisible_logical]
  omega

/-! ### Operations whose STAGE condition fails (log 11) -/

section
variable (h : s.pix.inb ≠ 0#1)
include h

theorem execTile_of_border : execTile s = .next s := if_neg (by simpa using h)

theorem execScode_of_border : execScode s = .next s := if_neg (by simpa using h)

theorem execGrow_of_border : execGrow s = .next s := if_neg (by simpa using h)

theorem execAttr_of_border : execAttr s = .next s := if_neg (by simpa using h)

end

/-- UNPACK.H runs for a visible pixel in hires only. -/
theorem execUnpackH_of_not_hires (h : ¬ (s.pix.inb = 0#1 ∧ s.x.mode = 0#1)) : execUnpackH s = .next s :=
  if_neg (by simpa using h)

/-- UNPACK.M runs for a visible pixel in multicolor only. -/
theorem execUnpackM_of_not_multi (h : ¬ (s.pix.inb = 0#1 ∧ s.x.mode = 1#1)) : execUnpackM s = .next s :=
  if_neg (by simpa using h)

end Sys2Proof.Machine

namespace Sys2Proof.Proofs

open Sys2Proof.Machine

/-! ### The statements of 40_border_detect.md -/

/-- Settles O27: lx and ly are the differences themselves, and pc's column and line are below 384 and 272. -/
theorem logicalCoordinateResult : Obligations.LogicalCoordinateResult := by
  refine ⟨fun w => rfl, fun s => ?_⟩
  have hx := logicalX_add (coordX s.pc)
  have hy := logicalY_add (coordY s.pc)
  have hxlt := coordX_lt s.pc
  have hylt := coordY_lt s.pc
  exact ⟨logicalX (coordX s.pc), logicalY (coordY s.pc), rfl, hx, hy, by omega, by omega, by omega, by omega⟩

/-- Settles O28: the bit BORDER gives is `borderBit` of the pixel's logical coordinate. -/
theorem borderTestResult : Obligations.BorderTestResult :=
  ⟨fun s => ⟨borderBit s.pix.lx s.pix.ly, rfl, borderBit_eq_zero_iff_range s.pix.lx s.pix.ly⟩,
    borderBit_logical_eq_zero_iff⟩

/-- Settles O34: inb = 1 fails every condition that asks for a visible pixel, and each mode the other's unpacker. -/
theorem stagesOutsideTheirConditionDoNothing : Obligations.StagesOutsideTheirConditionDoNothing := by
  have hne : (1#1 : BitVec 1) ≠ 0#1 := by decide
  refine fun s => ⟨fun hb => ?_, fun hm => ?_, fun hm => ?_⟩
  · have hb0 : s.pix.inb ≠ 0#1 := hb ▸ hne
    exact ⟨execTile_of_border hb0, execScode_of_border hb0, execGrow_of_border hb0, execAttr_of_border hb0,
      execUnpackH_of_not_hires fun hv => hb0 hv.1, execUnpackM_of_not_multi fun hv => hb0 hv.1⟩
  · exact execUnpackH_of_not_hires fun hv => hne (hm.symm.trans hv.2)
  · exact execUnpackM_of_not_multi fun hv => hne (hv.2.symm.trans hm)

end Sys2Proof.Proofs

/-! PROOFS. The tile index and the glyph address as numbers, the byte each fetch of a visible pixel reads, and the
statements on the tile split and the fetches (41_tile_fetch.md). -/

namespace Sys2Proof.Machine

variable {s : State}

/-! ### The tile index and the glyph address -/

/-- Two existing tiles with one index are the same tile (41_tile_fetch.md R121): col is below 40, the factor of row. -/
theorem tileIndex_injective {row row' : BitVec 5} {col col' : BitVec 6} (hr : row.toNat < 25) (hr' : row'.toNat < 25)
    (hc : col.toNat < 40) (hc' : col'.toNat < 40) (h : tileIndex row col = tileIndex row' col') :
    row = row' ∧ col = col' := by
  have hnat : row.toNat * 40 + col.toNat = row'.toNat * 40 + col'.toNat := by
    rw [← tileIndex_toNat hr hc, h, tileIndex_toNat hr' hc']
  exact ⟨BitVec.eq_of_toNat_eq (by omega), BitVec.eq_of_toNat_eq (by omega)⟩

/-- g x 8 + wr puts wr, which is below 8, under the bits of g (41_tile_fetch.md R123). -/
theorem glyphAddr_eq_append (g : Byte) (wr : BitVec 3) : glyphAddr g wr = 0#1 ++ g ++ wr := by
  apply BitVec.eq_of_toNat_eq
  have hg : (0#1 ++ g).toNat = g.toNat := by rw [BitVec.toNat_append]; simp
  rw [glyphAddr_toNat, BitVec.toNat_append, hg, ← Nat.shiftLeft_add_eq_or_of_lt wr.isLt, Nat.shiftLeft_eq]

/-- The block addresses only the first half of CG (90_conflicts.md C1). -/
theorem glyphAddr_lt (g : Byte) (wr : BitVec 3) : (glyphAddr g wr).toNat < 2048 := by
  rw [glyphAddr_toNat]; omega

/-! ### The reads of the fetches -/

/-- Addresses below 1000 exist in SB (20_memory.md R52). -/
theorem readSB_of_lt {a : BitVec 10} (h : a.toNat < 1000) : readSB s a = .ok (s.byteIn .sb s.sb a.toNat) := if_pos h

/-- A glyph row is the byte of CG at g x 8 + wr. -/
theorem readCG_glyphAddr (s : State) (g : Byte) (wr : BitVec 3) :
    readCG s (glyphAddr g wr) = s.byteIn .cg s.cg (g.toNat * 8 + wr.toNat) := by
  rw [readCG, glyphAddr_toNat]

/-- A byte of CA the platform takes gives its bits 3:0 (30_encoding.md R84). -/
theorem attrForeground_of_accepted {policy : Config.AttrHiPolicy} {a : Byte}
    (h : policy = .mask ∨ a.extractLsb' 4 4 = 0#4) : attrForeground policy a = .ok (a.extractLsb' 0 4) := by
  cases policy with
  | mask => rfl
  | refuse => exact if_pos (h.resolve_left nofun)

/-! ### The fetches of a visible pixel: the byte at the address, written or free, becomes the pixel's own value -/

section
variable (h : s.pix.inb = 0#1)
include h

theorem execScode_of_byteIn {g : Byte} (hi : s.pix.tile.index.toNat < 1000)
    (hg : s.byteIn .sb s.sb s.pix.tile.index.toNat = g) :
    execScode s = .next (s.setPix { s.pix with g := g }) := by
  rw [execScode_of_visible h, readSB_of_lt hi, hg, withValue_ok]

theorem execGrow_of_byteIn {b : Byte} (hb : s.byteIn .cg s.cg (s.pix.g.toNat * 8 + s.pix.tile.wr.toNat) = b) :
    execGrow s = .next (s.setPix { s.pix with b := b }) := by
  rw [execGrow, if_pos (by simpa using h), readCG_glyphAddr, hb]

theorem execAttr_of_byteIn {a : Byte} (ha : s.byteIn .ca s.ca s.pix.tile.index.toNat = a)
    (hok : s.platform.attrHi = .mask ∨ a.extractLsb' 4 4 = 0#4) :
    execAttr s = .next (s.setPix { s.pix with a := a, fg := a.extractLsb' 0 4 }) := by
  rw [execAttr_of_visible h, readCA, ha, attrForeground_of_accepted hok, withValue_ok]

end

/-- While IDLE a GET of a cell that exists hands the host what the cell holds. -/
theorem hostAccess_getFB_of_idle {a : BitVec 17} (hr : s.run = .idle) (ha : a.toNat < 104448) :
    hostAccess (.getFB a) s = .next (s.setGot (s.recordIn a.toNat)) :=
  (whenIdle_of_idle hr _).trans (if_pos ha)

end Sys2Proof.Machine

namespace Sys2Proof.Proofs

open Sys2Proof.Machine

/-! ### The statements of 41_tile_fetch.md -/

/-- Settles O29: TILE gives `tileSplit`, whose fields are the quotients and remainders by 8. -/
theorem tileSplitResult : Obligations.TileSplitResult := by
  intro s hb hx0 hx hy0 hy
  have hin := (insideVisible_iff s.pix.lx s.pix.ly).2 ⟨hx0, hx, hy0, hy⟩
  have htile : exec .tile s = _ := (execTile_of_visible hb).trans (if_pos hin)
  obtain ⟨hcol, hrow, hwc, hwr, hidx⟩ := tileSplit_toNat hin
  refine ⟨tileSplit s.pix.lx s.pix.ly, htile, ?_, ?_, ?_, ?_, ?_, ?_⟩ <;> omega

/-- Settles O30: below row 25 and column 40 the index does not wrap, and tells row and column apart. -/
theorem tileIndexIsDistinctAndInRange : Obligations.TileIndexIsDistinctAndInRange := by
  intro row row' col col' hr hr' hc hc'
  have hidx := tileIndex_toNat hr hc
  exact ⟨hidx, by omega, by omega, by omega, tileIndex_injective hr hr' hc hc'⟩

/-- Settles O31: each fetch takes the byte its memory holds, here the one written. -/
theorem fetchesReadTheirByte : Obligations.FetchesReadTheirByte :=
  ⟨fun _ _ hb hi hg => execScode_of_byteIn hb hi (State.byteIn_of_some .sb hg),
    fun _ _ hb hrow => execGrow_of_byteIn hb (State.byteIn_of_some .cg hrow),
    fun _ _ hb ha hok => execAttr_of_byteIn hb (State.byteIn_of_some .ca ha) hok,
    fun g wr => ⟨glyphAddr_eq_append g wr, glyphAddr_lt g wr⟩⟩

/-- Settles O32: each fetch takes the byte its memory holds, and a GET the record of its cell, here the free ones. -/
theorem unwrittenMemoryReadsAsSomeValue : Obligations.UnwrittenMemoryReadsAsSomeValue := by
  refine fun s => ⟨fun hb hi hg => ?_, fun hb hrow => ?_, fun hb ha hok => ?_, fun a hr ha hfree => ?_⟩
  · exact execScode_of_byteIn hb hi (State.byteIn_of_none .sb hg)
  · exact execGrow_of_byteIn hb (State.byteIn_of_none .cg hrow)
  · exact execAttr_of_byteIn hb (State.byteIn_of_none .ca ha) hok
  · rw [hostAccess_getFB_of_idle hr ha, State.recordIn_of_none hfree]
    rfl

end Sys2Proof.Proofs

/-! PROOFS. The unpackers as bit fields of the glyph row, the two output pixels of a bit pair, and the statements on the
unpacker (42_unpack.md). -/

namespace Sys2Proof.Machine

variable {s : State}

/-! ### The unpackers as fields of the glyph row -/

/-- The low bits of a word shifted right are a field of the word. -/
theorem setWidth_ushiftRight_eq_extract {n : Nat} (x : BitVec n) (start len : Nat) :
    (x >>> start).setWidth len = x.extractLsb' start len := by
  apply BitVec.eq_of_toNat_eq
  rw [BitVec.toNat_setWidth, BitVec.toNat_ushiftRight, BitVec.extractLsb'_toNat]

/-- A hires value is bit 7 - wc of the row under a 0 (42_unpack.md R135). -/
theorem unpackHires_eq_extract (b : Byte) (wc : BitVec 3) :
    unpackHires b wc = 0#1 ++ b.extractLsb' (7 - wc.toNat) 1 := by
  rw [unpackHires, BitVec.and_one_eq_setWidth_ofBool_getLsbD, ← BitVec.setWidth_one, setWidth_ushiftRight_eq_extract,
    BitVec.setWidth_setWidth_of_le _ (by decide), BitVec.setWidth_eq_append (by decide), BitVec.cast_eq]

/-- A multicolor value is the two bits of the row from 6 - 2k up, k = wc div 2 (42_unpack.md R136). -/
theorem unpackMulti_eq_extract (b : Byte) (wc : BitVec 3) :
    unpackMulti b wc = b.extractLsb' (6 - 2 * (wc.toNat / 2)) 2 := by
  have hmask : (3#8).setWidth 2 = BitVec.allOnes 2 := rfl
  rw [unpackMulti, BitVec.setWidth_and, hmask, BitVec.and_allOnes, setWidth_ushiftRight_eq_extract]

/-- The two bits of a hires value: 0 and B[7 - wc]. -/
theorem unpackHires_bits (b : Byte) (wc : BitVec 3) :
    (unpackHires b wc).getLsbD 1 = false ∧ (unpackHires b wc).getLsbD 0 = b.getLsbD (7 - wc.toNat) := by
  simp only [unpackHires_eq_extract, BitVec.getLsbD_append, BitVec.getLsbD_extractLsb']
  exact ⟨rfl, rfl⟩

/-- The two bits of a multicolor value: B[7 - 2k], 7 - 2k being one above 6 - 2k as k is at most 3, and B[6 - 2k]. -/
theorem unpackMulti_bits (b : Byte) (wc : BitVec 3) :
    (unpackMulti b wc).getLsbD 1 = b.getLsbD (7 - 2 * (wc.toNat / 2)) ∧
      (unpackMulti b wc).getLsbD 0 = b.getLsbD (6 - 2 * (wc.toNat / 2)) := by
  have hhigh : 6 - 2 * (wc.toNat / 2) + 1 = 7 - 2 * (wc.toNat / 2) := by have := wc.isLt; omega
  simp only [unpackMulti_eq_extract, BitVec.getLsbD_extractLsb', hhigh]
  exact ⟨rfl, rfl⟩

/-- A pixel value as a number, from its two bits. -/
theorem pixelValue_toNat (v : BitVec 2) : v.toNat = 2 * (v.getLsbD 1).toNat + (v.getLsbD 0).toNat := by
  revert v; decide

/-- A hires value as a number. -/
theorem unpackHires_toNat (b : Byte) (wc : BitVec 3) : (unpackHires b wc).toNat = (b.getLsbD (7 - wc.toNat)).toNat := by
  obtain ⟨hhigh, hlow⟩ := unpackHires_bits b wc
  rw [pixelValue_toNat, hhigh, hlow, Bool.toNat_false, Nat.mul_zero, Nat.zero_add]

/-- A multicolor value as a number: the left bit of the pair is the more significant one. -/
theorem unpackMulti_toNat (b : Byte) (wc : BitVec 3) :
    (unpackMulti b wc).toNat =
      2 * (b.getLsbD (7 - 2 * (wc.toNat / 2))).toNat + (b.getLsbD (6 - 2 * (wc.toNat / 2))).toNat := by
  obtain ⟨hhigh, hlow⟩ := unpackMulti_bits b wc
  rw [pixelValue_toNat, hhigh, hlow]

/-- The columns of pair k are 2k and 2k + 1. -/
theorem pairColumn_toNat (k : BitVec 2) :
    (k ++ 0#1).toNat = 2 * k.toNat ∧ (k ++ 1#1).toNat = 2 * k.toNat + 1 := by
  revert k; decide

/-! ### The whole-row forms -/

/-- RowH lists bit 7 - wc at column wc (42_unpack.md R139). -/
theorem rowHires_getElem? (b : Byte) (wc : BitVec 3) :
    (rowHires b)[wc.toNat]? = some (b.extractLsb' (7 - wc.toNat) 1) := by
  have hrow : rowHires b = (List.range 8).map fun c => b.extractLsb' (7 - c) 1 := rfl
  rw [hrow, List.getElem?_map, List.getElem?_range wc.isLt, Option.map_some]

/-- RowM lists each pair at both of its columns. -/
theorem rowMulti_getElem? (b : Byte) (wc : BitVec 3) :
    (rowMulti b)[wc.toNat]? = some (b.extractLsb' (6 - 2 * (wc.toNat / 2)) 2) := by
  have hrow : rowMulti b = (List.range 8).map fun c => b.extractLsb' (6 - 2 * (c / 2)) 2 := rfl
  rw [hrow, List.getElem?_map, List.getElem?_range wc.isLt, Option.map_some]

/-! ### The unpackers of a visible pixel -/

/-- UNPACK.H of a visible pixel in hires. -/
theorem execUnpackH_of_hires (h : s.pix.inb = 0#1 ∧ s.x.mode = 0#1) :
    execUnpackH s = .next (s.setPix { s.pix with v := unpackHires s.pix.b s.pix.tile.wc }) :=
  if_pos (by simpa using h)

/-- UNPACK.M of a visible pixel in multicolor. -/
theorem execUnpackM_of_multi (h : s.pix.inb = 0#1 ∧ s.x.mode = 1#1) :
    execUnpackM s = .next (s.setPix { s.pix with v := unpackMulti s.pix.b s.pix.tile.wc }) :=
  if_pos (by simpa using h)

/-! ### The two output pixels of a bit pair (42_unpack.md R137) -/

/-- Bit 0 of the column does not enter a multicolor value. -/
theorem unpackMulti_congr (b : Byte) {wc wc' : BitVec 3} (h : wc.toNat / 2 = wc'.toNat / 2) :
    unpackMulti b wc = unpackMulti b wc' := by
  rw [unpackMulti, unpackMulti, h]

/-- In multicolor the pixel function sees of a column only whether it is visible, its tile, and its pair in that tile. -/
theorem pixelIndex_congr_of_multi (hm : s.x.mode = 1#1) {x x' y : Nat}
    (hvis : insideVisible (logicalX x) (logicalY y) = insideVisible (logicalX x') (logicalY y))
    (hidx : (tileSplit (logicalX x) (logicalY y)).index = (tileSplit (logicalX x') (logicalY y)).index)
    (hk : (tileSplit (logicalX x) (logicalY y)).wc.toNat / 2 = (tileSplit (logicalX x') (logicalY y)).wc.toNat / 2) :
    pixelIndex s x y = pixelIndex s x' y := by
  have hwr : (tileSplit (logicalX x) (logicalY y)).wr = (tileSplit (logicalX x') (logicalY y)).wr := rfl
  have hmode : ¬ s.x.mode = 0#1 := by rw [hm]; decide
  simp only [pixelIndex, hvis, hidx, hwr, if_neg hmode, unpackMulti_congr _ hk]

/-- The two columns are visible together: the visible area begins and ends at even columns, 32 and 352. -/
theorem insideVisible_pair (j y : Nat) :
    insideVisible (logicalX (2 * j)) (logicalY y) = insideVisible (logicalX (2 * j + 1)) (logicalY y) := by
  rw [Bool.eq_iff_iff, insideVisible_logical, insideVisible_logical]
  omega

/-- They are one pair of logical columns: the border's width, 32, is even. -/
theorem logicalX_pair_half (j : Nat) : (logicalX (2 * j)).toNat / 2 = (logicalX (2 * j + 1)).toNat / 2 := by
  have h0 := logicalX_add (2 * j)
  have h1 := logicalX_add (2 * j + 1)
  omega

/-- They are in one tile: its edge, 8, is even. -/
theorem tileSplit_pair_index (j : Nat) (ly : Int) :
    (tileSplit (logicalX (2 * j)) ly).index = (tileSplit (logicalX (2 * j + 1)) ly).index := by
  have hhalf := logicalX_pair_half j
  have hcol : (logicalX (2 * j)).toNat / 8 = (logicalX (2 * j + 1)).toNat / 8 := by omega
  simp only [tileSplit, Config.tileEdge, hcol]

/-- And they are one pair of that tile. -/
theorem tileSplit_pair_wc (j : Nat) (ly : Int) :
    (tileSplit (logicalX (2 * j)) ly).wc.toNat / 2 = (tileSplit (logicalX (2 * j + 1)) ly).wc.toNat / 2 := by
  have hhalf := logicalX_pair_half j
  simp only [tileSplit, Config.tileEdge, BitVec.toNat_ofNat]
  omega

/-- In multicolor they have the same colour index, visible or not. -/
theorem pixelIndex_pair (hm : s.x.mode = 1#1) (j y : Nat) : pixelIndex s (2 * j) y = pixelIndex s (2 * j + 1) y :=
  pixelIndex_congr_of_multi hm (insideVisible_pair j y) (tileSplit_pair_index j (logicalY y))
    (tileSplit_pair_wc j (logicalY y))

/-- A visible pixel's column within its tile is x mod 8: the border's width, 32, is a multiple of 8 (30_encoding.md
R89). -/
theorem tileSplit_wc_toNat {x y : Nat} (h : insideVisible (logicalX x) (logicalY y) = true) :
    (tileSplit (logicalX x) (logicalY y)).wc.toNat = x % 8 := by
  obtain ⟨-, -, hwc, -, -⟩ := tileSplit_toNat h
  obtain ⟨h0, -⟩ := (insideVisible_iff _ _).1 h
  have hx := logicalX_add x
  omega

end Sys2Proof.Machine

namespace Sys2Proof.Safety

open Sys2Proof.Machine

/-- The visible output coordinates are those whose logical coordinate is inside (40_border_detect.md R111). -/
theorem visibleXY_iff_inside (x y : Nat) : VisibleXY x y ↔ insideVisible (logicalX x) (logicalY y) = true := by
  rw [insideVisible_logical, VisibleXY]
  omega

end Sys2Proof.Safety

namespace Sys2Proof.Proofs

open Sys2Proof.Machine Sys2Proof.Safety

/-! ### The statements of 42_unpack.md -/

/-- Settles O35: the value UNPACK.H gives is `unpackHires`, bit B[7 - wc] under a 0. -/
theorem hiresUnpackTakesItsBit : Obligations.HiresUnpackTakesItsBit :=
  ⟨rfl, fun s hb hm => ⟨unpackHires s.pix.b s.pix.tile.wc, execUnpackH_of_hires ⟨hb, hm⟩,
    unpackHires_bits s.pix.b s.pix.tile.wc⟩⟩

/-- Settles O36: the value UNPACK.M gives is `unpackMulti`, bits B[7 - 2k] and B[6 - 2k]. -/
theorem multicolorUnpackTakesItsPair : Obligations.MulticolorUnpackTakesItsPair :=
  ⟨rfl, fun s hb hm => ⟨unpackMulti s.pix.b s.pix.tile.wc, execUnpackM_of_multi ⟨hb, hm⟩,
    unpackMulti_bits s.pix.b s.pix.tile.wc⟩⟩

/-- Settles O37: the two columns of a pair differ in bit 0 only, which neither the tile nor a multicolor value sees. -/
theorem pairedPixelsRenderIdentically : Obligations.PairedPixelsRenderIdentically := by
  refine ⟨fun b k => ?_, fun s j y hm => ?_, fun x y hv => ?_, fun j y hv => ?_⟩
  · obtain ⟨hleft, hright⟩ := pairColumn_toNat k
    exact unpackMulti_congr b (by omega)
  · have hidx := pixelIndex_pair hm j y
    exact ⟨hidx, congrArg (Except.map recordOf) hidx⟩
  · exact tileSplit_wc_toNat ((visibleXY_iff_inside x y).1 hv)
  · rw [visibleXY_iff_inside] at hv ⊢
    exact ⟨insideVisible_pair j y ▸ hv, tileSplit_pair_index j (logicalY y)⟩

/-- Settles O38: the bits B[7 - 2k] and B[6 - 2k] are the hires values of columns 2k and 2k + 1. -/
theorem pairValueIsTwoHiresBits : Obligations.PairValueIsTwoHiresBits := by
  intro b k
  obtain ⟨hleft, hright⟩ := pairColumn_toNat k
  have hk : 2 * k.toNat / 2 = k.toNat := by omega
  have hsub : 7 - (2 * k.toNat + 1) = 6 - 2 * k.toNat := by omega
  have hv := unpackMulti_toNat b (k ++ 0#1)
  rw [hleft, hk] at hv
  refine ⟨?_, hv⟩
  rw [hv, unpackHires_toNat, unpackHires_toNat, hleft, hright, hsub]

/-- Settles O39: the rows list the same bit fields as the unpackers give. -/
theorem wholeRowFormsAgree : Obligations.WholeRowFormsAgree := by
  refine fun b wc => ⟨?_, ?_, rfl, rfl⟩
  · rw [rowHires_getElem?, unpackHires_eq_extract, Option.map_some]
  · rw [rowMulti_getElem?, unpackMulti_eq_extract]

end Sys2Proof.Proofs

/-! PROOFS. The class of a selector word, the pixel function from the bytes of its tile, and the statements on colour
selection and the pixel function (43_color_select.md). -/

namespace Sys2Proof.Machine

variable {s : State}

/-! ### The class of a selector word -/

/-- A SEL row's pattern, read on numbers as the opcode table has it, or on words as the classes do. -/
theorem toNat_and_beq_toNat (w bits mask : BitVec 4) :
    ((w.toNat &&& mask.toNat) == bits.toNat) = ((w &&& mask) == bits) := by
  rw [Bool.eq_iff_iff, beq_iff_eq, beq_iff_eq, ← BitVec.toNat_and, BitVec.toNat_inj]

/-- A class whose row the selector word does not match does nothing (log 11). -/
theorem classOp_of_not_accepts {mnemonic : String} {bits mask : BitVec 4} (c : Color)
    (h : TableRow.accepts ⟨mnemonic, .sel, bits.toNat, mask.toNat⟩ s.selWord.toNat = false) :
    classOp bits mask c s = .next s := by
  rw [TableRow.accepts, toNat_and_beq_toNat] at h
  exact if_neg (Bool.eq_false_iff.1 h)

/-- The selector word of a visible pixel. -/
theorem selWord_of_visible (h : s.pix.inb = 0#1) : s.selWord = 0#1 ++ s.x.mode ++ s.pix.v := by
  rw [State.selWord, h]; rfl

/-- Bit 3 of a border pixel's selector word is 1, whatever the mode. -/
theorem selWord_of_border (h : s.pix.inb = 1#1) : (s.selWord &&& 0x8#4) = 0x8#4 := by
  have hw : s.selWord = 1#1 ++ s.x.mode ++ 0#2 := by rw [State.selWord, h]; rfl
  rw [hw]
  obtain hm | hm := bit_cases s.x.mode <;> rw [hm] <;> rfl

/-- A pixel value whose high bit is 0, as a hires one has. -/
theorem pixelValue_of_high_zero {v : BitVec 2} (h : v.getLsbD 1 = false) : v = 0#2 ∨ v = 1#2 := by
  revert v; decide

/-- An assembled selector word is not a reserved one: those are hires with the high value bit 1 (30_encoding.md R91). -/
theorem decodeSel_of_assembled {inb m : BitVec 1} {v : BitVec 2} (h : inb = 1#1 ∨ m = 1#1 ∨ v.getLsbD 1 = false) :
    ∃ i, decodeSel (selectorWord inb m v) = .ok i := by
  rw [decodeSel_selectorWord]
  by_cases hb : inb = 1#1
  · exact ⟨_, if_pos hb⟩
  rw [if_neg hb]
  by_cases hm : m = 0#1
  · have hv := (h.resolve_left hb).resolve_left (by rw [hm]; decide)
    rw [if_pos hm]
    obtain rfl | rfl := pixelValue_of_high_zero hv
    · exact ⟨.pxHbg, rfl⟩
    · exact ⟨.pxHfg, rfl⟩
  · rw [if_neg hm]
    split_ifs <;> exact ⟨_, rfl⟩

/-- The class a selector word decodes to is the only one whose row it matches. -/
theorem classes_filter_accepts {w : BitVec 4} {i : Instr} (h : decodeSel w = .ok i) :
    [Instr.pxBorder, .pxHbg, .pxHfg, .pxMbg0, .pxMbg1, .pxMbg2, .pxMfg].filter
      (fun j => j.tableRow.accepts w.toNat) = [i] := by
  unfold decodeSel at h
  split_ifs at h with hb <;> cases h
  · revert w; decide
  all_goals subst ‹w = _›; rfl

/-! ### The colour sources, by the bits of the pixel value -/

/-- A hires value, whose high bit is 0, takes the foreground where its low bit is 1. -/
theorem hiresSource_of_bit (x : DisplayRegs) (fg : Color) {v : BitVec 2} (h : v.getLsbD 1 = false) :
    hiresSource x fg v = if v.getLsbD 0 then fg else x.bg0 := by
  obtain rfl | rfl := pixelValue_of_high_zero h <;> rfl

/-- A multicolor value takes the source its two bits number. -/
theorem multiSource_of_bits (x : DisplayRegs) (fg : Color) (v : BitVec 2) :
    multiSource x fg v =
      if v.getLsbD 1 then (if v.getLsbD 0 then fg else x.bg2) else (if v.getLsbD 0 then x.bg1 else x.bg0) := by
  obtain rfl | rfl | rfl | rfl : v = 0#2 ∨ v = 1#2 ∨ v = 2#2 ∨ v = 3#2 := by revert v; decide
  all_goals rfl

/-! ### The pixel function from the bytes it reads -/

/-- Outside the visible area the pixel takes the border register. -/
theorem pixelIndex_border {x y : Nat} (h : ¬ insideVisible (logicalX x) (logicalY y) = true) :
    pixelIndex s x y = .ok s.x.border := if_neg h

/-- The logical column of a visible pixel as a natural number. -/
theorem logicalX_toNat (x : Nat) : (logicalX x).toNat = x - 32 := Int.toNat_sub x 32

/-- Its logical line. -/
theorem logicalY_toNat (y : Nat) : (logicalY y).toNat = y - 36 := Int.toNat_sub y 36

/-- The colour of a visible pixel: from the registers, its foreground, its glyph row and its column in the tile. -/
def glyphColor (x : DisplayRegs) (fg : Color) (b : Byte) (wc : BitVec 3) : Color :=
  if x.mode = 0#1 then hiresSource x fg (unpackHires b wc) else multiSource x fg (unpackMulti b wc)

/-- In hires it is chosen by bit 7 - wc of the row. -/
theorem glyphColor_of_hires {x : DisplayRegs} (h : x.mode = 0#1) (fg : Color) (b : Byte) (wc : BitVec 3) :
    glyphColor x fg b wc = if b.getLsbD (7 - wc.toNat) then fg else x.bg0 := by
  obtain ⟨hhigh, hlow⟩ := unpackHires_bits b wc
  rw [glyphColor, if_pos h, hiresSource_of_bit x fg hhigh, hlow]

/-- In multicolor it is chosen by the pair of bits 7 - 2k and 6 - 2k, k = wc div 2. -/
theorem glyphColor_of_multi {x : DisplayRegs} (h : x.mode = 1#1) (fg : Color) (b : Byte) (wc : BitVec 3) :
    glyphColor x fg b wc =
      if b.getLsbD (7 - 2 * (wc.toNat / 2)) then (if b.getLsbD (6 - 2 * (wc.toNat / 2)) then fg else x.bg2)
      else (if b.getLsbD (6 - 2 * (wc.toNat / 2)) then x.bg1 else x.bg0) := by
  obtain ⟨hhigh, hlow⟩ := unpackMulti_bits b wc
  rw [glyphColor, if_neg (by rw [h]; decide), multiSource_of_bits, hhigh, hlow]

/-- Of the registers it reads MODE, BG0, and in multicolor BG1 and BG2 (43_color_select.md R160). -/
theorem glyphColor_congr {x x' : DisplayRegs} (hmode : x'.mode = x.mode) (h0 : x'.bg0 = x.bg0)
    (hmulti : x.mode = 1#1 → x'.bg1 = x.bg1 ∧ x'.bg2 = x.bg2) (fg : Color) (b : Byte) (wc : BitVec 3) :
    glyphColor x' fg b wc = glyphColor x fg b wc := by
  obtain hm | hm := bit_cases x.mode
  · rw [glyphColor_of_hires hm, glyphColor_of_hires (hmode.trans hm), h0]
  · obtain ⟨h1, h2⟩ := hmulti hm
    rw [glyphColor_of_multi hm, glyphColor_of_multi (hmode.trans hm), h0, h1, h2]

end Sys2Proof.Machine

namespace Sys2Proof.Safety

open Sys2Proof.Machine

variable {s : State} {x y : Nat}

/-- The tile of a visible pixel exists (41_tile_fetch.md R121). -/
theorem tileOf_lt (h : VisibleXY x y) : (y - 36) / 8 * 40 + (x - 32) / 8 < 1000 := by
  obtain ⟨-, hx, -, hy⟩ := h
  omega

/-- A visible pixel's colour, from the three bytes its memories hold at its tile and line, written or free, where the
platform takes the byte of CA (43_color_select.md R159). -/
theorem pixelIndex_of_bytes {g b a : Byte} {wc : BitVec 3} (h : VisibleXY x y)
    (hg : s.byteIn .sb s.sb ((y - 36) / 8 * 40 + (x - 32) / 8) = g)
    (hb : s.byteIn .cg s.cg (g.toNat * 8 + (y - 36) % 8) = b)
    (ha : s.byteIn .ca s.ca ((y - 36) / 8 * 40 + (x - 32) / 8) = a)
    (hok : s.platform.attrHi = .mask ∨ a.extractLsb' 4 4 = 0#4) (hwc : wc.toNat = (x - 32) % 8) :
    pixelIndex s x y = .ok (glyphColor s.x (a.extractLsb' 0 4) b wc) := by
  have hin := (visibleXY_iff_inside x y).1 h
  obtain ⟨-, -, hcol, hline, hidx⟩ := tileSplit_toNat hin
  rw [logicalX_toNat] at hcol hidx
  rw [logicalY_toNat] at hline hidx
  obtain rfl : (tileSplit (logicalX x) (logicalY y)).wc = wc := BitVec.eq_of_toNat_eq (hcol.trans hwc.symm)
  rw [pixelIndex_visible hin]
  dsimp only
  rw [readCG_glyphAddr, readCA, hidx, hline, hg, hb, ha, attrForeground_of_accepted hok]
  rfl

end Sys2Proof.Safety

namespace Sys2Proof.Proofs

open Sys2Proof.Machine Sys2Proof.Safety

/-! ### The statements of 43_color_select.md -/

/-- Settles O40: the selector word of each class's pixel matches its row, so the class takes its source. -/
theorem pixelClassesTakeTheirSource : Obligations.PixelClassesTakeTheirSource := by
  intro s
  have hsel {bits : BitVec 4} (hb : s.pix.inb = 0#1) (h : 0#1 ++ s.x.mode ++ s.pix.v = bits) :
      (s.selWord &&& 0xF#4) = bits := by
    rw [selWord_of_visible hb, h]
    exact BitVec.and_allOnes
  refine ⟨fun hb => classOp_of_matches s.x.border (selWord_of_border hb), fun hb hm => ⟨fun hv => ?_, fun hv => ?_⟩,
    fun hb hm => ⟨fun hv => ?_, fun hv => ?_, fun hv => ?_, fun hv => ?_⟩⟩
  all_goals exact classOp_of_matches _ (hsel hb (by rw [hm, hv]; rfl))

/-- Settles O41, class by class: an instruction of a SEL row is a class operation with its row's pattern. -/
theorem unselectedClassesDoNothing : Obligations.UnselectedClassesDoNothing := by
  intro i s hf h
  cases i with
  | pxBorder | pxHbg | pxHfg | pxMbg0 | pxMbg1 | pxMbg2 | pxMfg => exact classOp_of_not_accepts _ h
  | _ => exact nomatch hf

/-- Settles O43. -/
theorem borderPixelTakesBorderRegister : Obligations.BorderPixelTakesBorderRegister :=
  fun _ x y h => pixelIndex_border ((visibleXY_iff_inside x y).not.1 h)

/-- Settles O44: the three bytes are written ones, and the column in the tile is (x - 32) mod 8. -/
theorem visiblePixelFollowsItsGlyph : Obligations.VisiblePixelFollowsItsGlyph := by
  intro s x y g b a hv hg hb ha hok
  obtain ⟨wc, hwc⟩ : ∃ wc : BitVec 3, wc.toNat = (x - 32) % 8 := ⟨BitVec.ofNat 3 (x - 32), BitVec.toNat_ofNat _ _⟩
  have hidx := pixelIndex_of_bytes hv (State.byteIn_of_some .sb hg) (State.byteIn_of_some .cg hb)
    (State.byteIn_of_some .ca ha) hok hwc
  rw [hidx, ← hwc]
  exact ⟨fun hm => congrArg Except.ok (glyphColor_of_hires hm _ b wc),
    fun hm => congrArg Except.ok (glyphColor_of_multi hm _ b wc)⟩

/-- Settles O45: a border pixel takes its register, and the byte of CA of a visible pixel's tile is a legal one. -/
theorem pixelFunctionIsTotal : Obligations.PixelFunctionIsTotal := by
  intro s hlegal x y
  by_cases hv : VisibleXY x y
  · exact ⟨_, pixelIndex_of_bytes hv rfl rfl rfl (hlegal.imp_right fun h => h _ (tileOf_lt hv)) (BitVec.toNat_ofNat _ 3)⟩
  · exact ⟨_, borderPixelTakesBorderRegister s x y hv⟩

/-- Settles O47: both states answer the colour of the same glyph row and foreground, under registers that agree where it
reads them. -/
theorem visiblePixelDependsOnlyOn : Obligations.VisiblePixelDependsOnlyOn := by
  rintro s t x y tile g hv rfl hs ht hmode h0 hmulti hgs hgt hb ha
  have hwc : (BitVec.ofNat 3 (x - 32)).toNat = (x - 32) % 8 := BitVec.toNat_ofNat _ _
  rw [pixelIndex_of_bytes hv hgs rfl rfl (.inl hs) hwc, pixelIndex_of_bytes hv hgt hb rfl (.inl ht) hwc, ha,
    glyphColor_congr hmode h0 hmulti]

/-- Settles O4: an assembled word decodes, and the class it decodes to is the only one it matches. -/
theorem assembledSelectorHasOneClass : Obligations.AssembledSelectorHasOneClass := by
  refine ⟨fun inb m v h => ?_, by decide, by decide⟩
  obtain ⟨i, hi⟩ := decodeSel_of_assembled h
  exact ⟨i, hi, classes_filter_accepts hi⟩

/-- Settles O42: PAL is one write at pc, which is y x 384 + x. -/
theorem palWritesTheRecord : Obligations.PalWritesTheRecord := by
  refine ⟨fun w => rfl, fun s => ?_⟩
  have hpc : s.pc.val / 384 * 384 + s.pc.val % 384 = s.pc.val := coordY_mul_add_coordX s.pc
  rw [hpc]
  exact ⟨_, rfl, memRead_memWrite_same s.fb s.pc.val _, fun a ha => memRead_memWrite_other s.fb _ ha⟩

end Sys2Proof.Proofs

/-! PROOFS. What a host command does to a busy block, where a raster step stops, drawings in any order, a frame from its
START to its end, and the statements on the host's commands and the raster step (44_frame_control.md). -/

namespace Sys2Proof

/-! ### Host words written with the slot and `we` in one field -/

section
variable (ign : BitVec 3) (m : BitVec 1)

/-- A word 1100---m is WR.MODE (30_encoding.md R87). -/
theorem decodeHc_wrMode : decodeHc (0b1100#4 ++ ign ++ m) = .wrMode ign m := by
  have hw : 0b1100#4 ++ ign ++ m = 1#1 ++ 4#3 ++ (ign ++ m) := BitVec.append_assoc
  rw [hw]
  exact decodeHc_of_hostWord (.wrMode _ ign m rfl)

/-- A word 1101---0 is CTRL.NOP. -/
theorem decodeHc_ctrlNop : decodeHc (0b1101#4 ++ ign ++ 0#1) = .ctrlNop ign := by
  have hw : 0b1101#4 ++ ign ++ 0#1 = 1#1 ++ 5#3 ++ (ign ++ 0#1) := BitVec.append_assoc
  rw [hw]
  exact decodeHc_of_hostWord (.ctrlNop _ ign rfl)

end

end Sys2Proof

namespace Sys2Proof.Machine

variable {s t : State} {i : Instr}

/-! ### The turns of the rasterizer and a placed host word -/

section
variable (hw : s.platform.wellFormed = true)
include hw

/-- Where the host gives the rasterizer a turn, the step is the raster step. -/
theorem step_of_raster {rest : List Turn} (h : s.turns = .raster :: rest) : step s = exec .step (s.setTurns rest) := by
  rw [step, if_pos hw, h]

/-- So it is where no move is pending (log 1). -/
theorem step_of_no_turns (h : s.turns = []) : step s = exec .step s := by
  rw [step, if_pos hw, h]

/-- A host word that withFetchWord places is run by the next step (log 15). -/
theorem step_withFetchWord_hc {w : Nat} (h : w < 256) :
    step (s.withFetchWord 8 w) = exec (decodeHc (BitVec.ofNat 8 w)) s := by
  have hplace : s.withFetchWord 8 w = s.setTurns (.command (BitVec.ofNat 8 w) :: s.turns) := by
    simp [State.withFetchWord, codeOfTableWord, h]
  rw [hplace]
  exact step_of_command (s := s.setTurns (.command (BitVec.ofNat 8 w) :: s.turns)) hw rfl

end

/-! ### The host's commands -/

/-- START while IDLE begins a frame. -/
theorem execStart_of_idle (h : s.run = .idle) : execStart s = .next s.beginFrame := by
  simp only [execStart, h]

/-- START while BUSY has no effect (44_frame_control.md R178). -/
theorem execStart_of_busy (h : s.run = .busy) : execStart s = .next s := by
  simp only [execStart, h]

/-- A host command completes in every state. -/
theorem exec_hostWord_next {w : BitVec 8} (h : HostWord i w) (s : State) : ∃ t, exec i s = .next t := by
  cases h with
  | start =>
    cases hr : s.run with
    | idle => exact ⟨_, execStart_of_idle hr⟩
    | busy => exact ⟨_, execStart_of_busy hr⟩
  | _ => exact ⟨_, rfl⟩

/-- All that a host command can do to a busy block: set pending registers, with their record, and the read port. -/
theorem command_of_busy {w : BitVec 8} (hr : s.run = .busy) (h : exec (decodeHc w) s = .next t) :
    t = (s.setPending t.p t.pw).setRd t.rd := by
  have hf := decodeHc_format w
  generalize decodeHc w = i at hf h
  cases exec_effect h with
  | pixel _ _ hi _ => exact absurd hi.2 (by rw [hf]; decide)
  | pal | step => exact absurd hf (by decide)
  | start _ hi => exact nomatch hr.symm.trans hi
  | unchanged | rd | wrBorder | wrBg0 | wrBg1 | wrBg2 | wrMode => rfl

/-- The end of a raster step does not look at what the host's commands set while BUSY. -/
theorem State.endPixel_setPending_setRd (s : State) (p : DisplayRegs) (pw : PendingWritten) (v : BitVec 4) :
    ((s.setPending p pw).setRd v).endPixel = (s.endPixel.setPending p pw).setRd v := by
  by_cases h : s.pc.val + 1 < Config.npix
  · rw [State.endPixel_of_lt s h, State.endPixel_of_lt ((s.setPending p pw).setRd v) h]; rfl
  · rw [State.endPixel_of_last s h, State.endPixel_of_last ((s.setPending p pw).setRd v) h]; rfl

/-! ### Where a raster step stops -/

/-- The raster step of a busy block whose pixel has index c. -/
theorem execStep_of_ok {c : Color} (hr : s.run = .busy) (h : pixelAtPc s = .ok c) :
    execStep s = .next (s.writeFB s.pc (recordOf c)).endPixel := by
  rw [execStep_of_busy hr, h, withValue_ok]

/-- The raster step of a busy block whose pixel function stops. -/
theorem execStep_of_error {e : Stop} (hr : s.run = .busy) (h : pixelAtPc s = .error e) : execStep s = e.answer := by
  rw [execStep_of_busy hr, h, withValue_error]

/-- A byte of CA stops its pixel exactly where its high bits are set on a platform that refuses them. -/
theorem attrForeground_error_iff {policy : Config.AttrHiPolicy} {a : Byte} {e : Stop} :
    attrForeground policy a = .error e ↔
      e = .refusal .attributeHighBits ∧ policy = .refuse ∧ a.extractLsb' 4 4 ≠ 0#4 := by
  cases policy with
  | mask => exact ⟨nofun, fun ⟨_, hp, _⟩ => nomatch hp⟩
  | refuse =>
    by_cases ha : a.extractLsb' 4 4 = 0#4
    · rw [attrForeground_of_accepted (.inr ha)]
      exact ⟨nofun, fun ⟨_, _, hne⟩ => absurd ha hne⟩
    · rw [attrForeground_refuse ha, Except.error.injEq]
      exact ⟨fun he => ⟨he.symm, rfl, ha⟩, fun ⟨he, _⟩ => he.symm⟩

/-! ### Drawings in any order (44_frame_control.md R177) -/

/-- The pixel function does not read the surface. -/
@[simp] theorem pixelIndex_writeFB (s : State) (a : Fin Config.npix) (r : PixelRecord) (x y : Nat) :
    pixelIndex (s.writeFB a r) x y = pixelIndex s x y :=
  pixelIndex_congr rfl rfl rfl rfl rfl rfl x y

/-- A drawing succeeds with the record of its pixel's index. -/
theorem drawAt_of_ok {pos : Fin Config.npix} {c : Color} (h : pixelIndex s (coordX pos) (coordY pos) = .ok c) :
    drawAt s pos = .ok (s.writeFB pos (recordOf c)) := by
  rw [drawAt, pixelRecord, h]; rfl

/-- Writes to different cells of the surface commute. -/
theorem State.writeFB_comm {a b : Fin Config.npix} (q r : PixelRecord) (h : a ≠ b) :
    (s.writeFB a q).writeFB b r = (s.writeFB b r).writeFB a q := by
  have hval : a.val ≠ b.val := Fin.val_ne_of_ne h
  simp only [State.writeFB, memWrite_comm s.fb q r hval]

/-- Two pixels can be drawn the other way round: neither drawing reads the surface, and they write different cells. -/
theorem drawAt_comm {a b : Fin Config.npix} {u : State} (ha : drawAt s a = .ok u) (hb : drawAt u b = .ok t) :
    ∃ v, drawAt s b = .ok v ∧ drawAt v a = .ok t := by
  obtain rfl | hne := eq_or_ne a b
  · exact ⟨u, ha, hb⟩
  obtain ⟨c, hc, rfl⟩ := drawAt_ok ha
  obtain ⟨d, hd, rfl⟩ := drawAt_ok hb
  rw [pixelIndex_writeFB] at hd
  refine ⟨_, drawAt_of_ok hd, ?_⟩
  rw [drawAt_of_ok ((pixelIndex_writeFB s b _ _ _).trans hc), State.writeFB_comm _ _ hne]

/-! ### The end of a raster step -/

/-- A raster step leaves everything but the surface, pc, RUN, DONE and the pixel in progress, which it drops. -/
theorem writeFB_endPixel_frame (s : State) (r : PixelRecord) :
    (s.writeFB s.pc r).endPixel =
      { s with
        fb := (s.writeFB s.pc r).endPixel.fb, pc := (s.writeFB s.pc r).endPixel.pc,
        run := (s.writeFB s.pc r).endPixel.run, done := (s.writeFB s.pc r).endPixel.done, pix := PixelLatch.empty } := by
  by_cases h : (s.writeFB s.pc r).pc.val + 1 < Config.npix
  · rw [State.endPixel_of_lt _ h]; rfl
  · rw [State.endPixel_of_last _ h]; rfl

/-- Before the last pixel of a frame pc advances, and the flags stay. -/
theorem State.endPixel_raster_of_lt (h : s.pc.val + 1 < Config.npix) :
    s.endPixel.pc.val = s.pc.val + 1 ∧ s.endPixel.run = s.run ∧ s.endPixel.done = s.done := by
  rw [State.endPixel_of_lt s h]
  exact ⟨rfl, rfl, rfl⟩

/-- At the last pixel the frame ends. -/
theorem State.endPixel_raster_of_last (h : s.pc.val = 104447) :
    s.endPixel.pc.val = 0 ∧ s.endPixel.run = .idle ∧ s.endPixel.done = true := by
  rw [State.endPixel_of_last s (by rw [h]; decide)]
  exact ⟨rfl, rfl, rfl⟩

/-- The pixel function is the same after a raster step. -/
theorem pixelIndex_writeFB_endPixel (s : State) (r : PixelRecord) (x y : Nat) :
    pixelIndex (s.writeFB s.pc r).endPixel x y = pixelIndex s x y :=
  pixelIndex_congr (State.endPixel_x _) (State.endPixel_cg _) (State.endPixel_sb _) (State.endPixel_ca _)
    (State.endPixel_resets _) (State.endPixel_platform _) x y

/-- The surface after a raster step. -/
theorem memRead_writeFB_endPixel (s : State) (r : PixelRecord) (a : Nat) :
    memRead (s.writeFB s.pc r).endPixel.fb a = if a = s.pc.val then some r else memRead s.fb a := by
  rw [State.endPixel_fb, State.writeFB_fb, memRead_memWrite]

/-- The raster position of an output coordinate, y x 384 + x (10_state.md R25). -/
theorem exists_pos_of_coord {x y : Nat} (hx : x < 384) (hy : y < 272) :
    ∃ pos : Fin Config.npix, pos.val = y * 384 + x ∧ coordX pos = x ∧ coordY pos = y := by
  refine ⟨⟨y * 384 + x, by simp only [Config.npix]; omega⟩, rfl, ?_, ?_⟩ <;>
    simp only [coordX, coordY, Config.outW] <;> omega

/-! ### A frame from its raster position to its end -/

/-- t is the end of the frame that s is in the middle of: RUN is IDLE, DONE 1 and pc 0; the cells from the raster position
of s on hold the records of the pixel function of s, the others and the rest of the block what they held in s. -/
structure FrameEnd (s t : State) : Prop where
  run : t.run = .idle
  done : t.done = true
  pc : t.pc.val = 0
  x : t.x = s.x
  p : t.p = s.p
  cg : t.cg = s.cg
  sb : t.sb = s.sb
  ca : t.ca = s.ca
  before : ∀ a < s.pc.val, memRead t.fb a = memRead s.fb a
  drawn : ∀ pos : Fin Config.npix, s.pc.val ≤ pos.val →
    ∃ c, pixelIndex s (coordX pos) (coordY pos) = .ok c ∧ memRead t.fb pos.val = some (recordOf c)

/-- The raster step at the last pixel ends the frame. -/
theorem frameEnd_of_last {c : Color} (hpc : s.pc.val = 104447) (hc : pixelAtPc s = .ok c) :
    FrameEnd s (s.writeFB s.pc (recordOf c)).endPixel := by
  obtain ⟨hpc', hrun, hdone⟩ := State.endPixel_raster_of_last (s := s.writeFB s.pc (recordOf c)) hpc
  refine ⟨hrun, hdone, hpc', State.endPixel_x _, State.endPixel_p _, State.endPixel_cg _, State.endPixel_sb _,
    State.endPixel_ca _, fun a ha => ?_, fun pos hpos => ?_⟩
  · rw [memRead_writeFB_endPixel, if_neg (Nat.ne_of_lt ha)]
  · have hlast : pos.val < 104448 := pos.isLt
    obtain rfl : pos = s.pc := Fin.ext (by omega)
    exact ⟨c, hc, by rw [memRead_writeFB_endPixel, if_pos rfl]⟩

/-- The end of the frame after a raster step is the end of the frame before it. -/
theorem frameEnd_of_step {c : Color} (hpc : s.pc.val + 1 < Config.npix) (hc : pixelAtPc s = .ok c)
    (h : FrameEnd (s.writeFB s.pc (recordOf c)).endPixel t) : FrameEnd s t := by
  obtain ⟨hpc', -, -⟩ := State.endPixel_raster_of_lt (s := s.writeFB s.pc (recordOf c)) hpc
  rw [State.writeFB_pc] at hpc'
  refine ⟨h.run, h.done, h.pc, h.x.trans (State.endPixel_x _), h.p.trans (State.endPixel_p _),
    h.cg.trans (State.endPixel_cg _), h.sb.trans (State.endPixel_sb _), h.ca.trans (State.endPixel_ca _),
    fun a ha => ?_, fun pos hpos => ?_⟩
  · rw [h.before a (by omega), memRead_writeFB_endPixel, if_neg (Nat.ne_of_lt ha)]
  · obtain heq | hlt := Nat.eq_or_lt_of_le hpos
    · obtain rfl : s.pc = pos := Fin.ext heq
      exact ⟨c, hc, by rw [h.before _ (by omega), memRead_writeFB_endPixel, if_pos rfl]⟩
    · obtain ⟨d, hd, hrec⟩ := h.drawn pos (by omega)
      exact ⟨d, (pixelIndex_writeFB_endPixel s _ _ _).symm.trans hd, hrec⟩

/-- With no further move of the host, a busy block whose pixels all have an index draws its frame to the end. -/
theorem run_to_frameEnd {n : Nat} (hw : s.platform.wellFormed = true) (hts : s.turns = []) (hr : s.run = .busy)
    (htotal : ∀ x y, ∃ c, pixelIndex s x y = .ok c) (hn : s.pc.val + n = 104447) :
    ∃ t, Host.Core.run Sys2Proof.core (n + 1) s = .next t ∧ FrameEnd s t := by
  induction n generalizing s with
  | zero =>
    obtain ⟨c, hc⟩ := htotal (coordX s.pc) (coordY s.pc)
    exact ⟨_, run_one_of_step ((step_of_no_turns hw hts).trans (execStep_of_ok hr hc)), frameEnd_of_last hn hc⟩
  | succ n ih =>
    obtain ⟨c, hc⟩ := htotal (coordX s.pc) (coordY s.pc)
    have hstep : step s = .next (s.writeFB s.pc (recordOf c)).endPixel :=
      (step_of_no_turns hw hts).trans (execStep_of_ok hr hc)
    have hpc : s.pc.val + 1 < Config.npix := by simp only [Config.npix]; omega
    obtain ⟨hpc', hr', -⟩ := State.endPixel_raster_of_lt (s := s.writeFB s.pc (recordOf c)) hpc
    obtain ⟨t, ht, hend⟩ := ih (s := (s.writeFB s.pc (recordOf c)).endPixel) (by simpa using hw) (by simpa using hts)
      (hr'.trans hr) (fun x y => by simpa only [pixelIndex_writeFB_endPixel] using htotal x y)
      (by rw [hpc', State.writeFB_pc]; omega)
    exact ⟨t, (run_succ_of_next (n + 1) hstep).trans ht, frameEnd_of_step hpc hc hend⟩

end Sys2Proof.Machine

namespace Sys2Proof.Safety

open Sys2Proof.Machine

variable {s t : State}

/-! ### Where a raster step stops -/

/-- The pixel function stops exactly at a visible pixel whose byte of CA the platform refuses. -/
theorem pixelIndex_error_iff {x y : Nat} {e : Stop} :
    pixelIndex s x y = .error e ↔
      e = .refusal .attributeHighBits ∧ s.platform.attrHi = .refuse ∧ VisibleXY x y ∧
        (s.byteIn .ca s.ca ((y - 36) / 8 * 40 + (x - 32) / 8)).extractLsb' 4 4 ≠ 0#4 := by
  by_cases hv : VisibleXY x y
  · have hin := (visibleXY_iff_inside x y).1 hv
    obtain ⟨-, -, -, -, hidx⟩ := tileSplit_toNat hin
    rw [logicalX_toNat, logicalY_toNat] at hidx
    have hattr := attrForeground_error_iff (policy := s.platform.attrHi)
      (a := s.byteIn .ca s.ca ((y - 36) / 8 * 40 + (x - 32) / 8)) (e := e)
    rw [and_iff_right hv, ← hattr, pixelIndex_visible hin]
    dsimp only
    rw [readCA, hidx]
    cases attrForeground s.platform.attrHi (s.byteIn .ca s.ca ((y - 36) / 8 * 40 + (x - 32) / 8)) <;>
      simp [Except.map]
  · rw [pixelIndex_border ((visibleXY_iff_inside x y).not.1 hv)]
    exact ⟨nofun, fun ⟨_, _, hv', _⟩ => absurd hv' hv⟩

/-- A raster step goes on, or is refused as the pixel function is at pc. -/
theorem execStep_cases (s : State) :
    (∃ t, execStep s = .next t) ∨
      (s.run = .busy ∧ pixelAtPc s = .error (.refusal .attributeHighBits) ∧
        execStep s = .refused .attributeHighBits) := by
  cases hr : s.run with
  | idle => exact .inl ⟨s, by simp only [execStep, hr]⟩
  | busy =>
    cases hp : pixelAtPc s with
    | ok c => exact .inl ⟨_, execStep_of_ok hr hp⟩
    | error e =>
      obtain ⟨rfl, -⟩ := pixelIndex_error_iff.1 hp
      exact .inr ⟨rfl, rfl, execStep_of_error hr hp⟩

/-- A raster step is refused exactly where its pixel is. -/
theorem execStep_refused_iff {r : Refusal} :
    execStep s = .refused r ↔ s.run = .busy ∧ pixelAtPc s = .error (.refusal r) := by
  constructor
  · intro h
    obtain ⟨t, ht⟩ | ⟨hr, hp, hx⟩ := execStep_cases s
    · exact nomatch h.symm.trans ht
    · cases h.symm.trans hx
      exact ⟨hr, hp⟩
  · exact fun ⟨hr, hp⟩ => execStep_of_error hr hp

/-! ### Drawings in any order (44_frame_control.md R177) -/

/-- Drawing a list of pixels is drawing the first, then the rest. -/
theorem drawAll_cons_iff {pos : Fin Config.npix} {rest : List (Fin Config.npix)} :
    drawAll (pos :: rest) s = .ok t ↔ ∃ u, drawAt s pos = .ok u ∧ drawAll rest u = .ok t := by
  simp only [drawAll, List.foldlM_cons]
  cases drawAt s pos <;> simp [bind, Except.bind]

/-- The order of the pixels of a drawing does not matter. -/
theorem drawAll_perm {order order' : List (Fin Config.npix)} (h : order.Perm order') (ht : drawAll order s = .ok t) :
    drawAll order' s = .ok t := by
  induction h generalizing s with
  | nil => exact ht
  | cons pos _ ih =>
    obtain ⟨u, hu, hrest⟩ := drawAll_cons_iff.1 ht
    exact drawAll_cons_iff.2 ⟨u, hu, ih hrest⟩
  | swap a b rest =>
    obtain ⟨u, hb, ht⟩ := drawAll_cons_iff.1 ht
    obtain ⟨v, ha, hrest⟩ := drawAll_cons_iff.1 ht
    obtain ⟨u', ha, hb⟩ := drawAt_comm hb ha
    exact drawAll_cons_iff.2 ⟨u', ha, drawAll_cons_iff.2 ⟨v, hb, hrest⟩⟩
  | trans _ _ ih₁ ih₂ => exact ih₂ (ih₁ ht)

end Sys2Proof.Safety

namespace Sys2Proof.Proofs

open Sys2Proof.Machine Sys2Proof.Safety

/-! ### The statements of 44_frame_control.md -/

/-- Settles O12: STEP stops only as the pixel function does at pc, which is at a byte of CA the platform refuses. -/
theorem rasterStepNeverFaults : Obligations.RasterStepNeverFaults := by
  refine ⟨fun s f h => ?_, fun s r => ?_⟩
  · obtain ⟨t, ht⟩ | ⟨-, -, hx⟩ := execStep_cases s
    · exact nomatch ht.symm.trans h
    · exact nomatch hx.symm.trans h
  · refine execStep_refused_iff.trans ?_
    rw [pixelAtPc, pixelIndex_error_iff, Stop.refusal.injEq]
    exact ⟨fun ⟨hr, he, hp, h⟩ => ⟨he, hp, hr, h⟩, fun ⟨he, hp, hr, h⟩ => ⟨hr, he, hp, h⟩⟩

/-- Settles O18: CTRL.NOP answers the same state, and no command given while BUSY reaches RUN or pc. -/
theorem noCommandStopsAFrame : Obligations.NoCommandStopsAFrame := by
  refine ⟨fun s ign => ⟨decodeHc_ctrlNop ign, rfl⟩, fun s t w hr h => ?_⟩
  rw [command_of_busy hr h]
  exact ⟨hr, rfl⟩

/-- Settles O22: every host word is a word of one of the nine forms. -/
theorem everyCommandCompletes : Obligations.EveryCommandCompletes :=
  fun w s => exec_hostWord_next (hostWord_decodeHc w) s

/-- Settles O23: the raster step reads none of what a command sets while BUSY. -/
theorem commandsDuringFrameDoNotTearIt : Obligations.CommandsDuringFrameDoNotTearIt := by
  intro w s t u hr ht hu
  obtain ⟨hi, -⟩ | ⟨-, c, hc, rfl⟩ := execStep_next hu
  · exact nomatch hr.symm.trans hi
  have hcommand := command_of_busy hr ht
  generalize t.p = p, t.pw = pw, t.rd = v at hcommand
  subst hcommand
  have hc' : pixelAtPc ((s.setPending p pw).setRd v) = .ok c := (pixelIndex_congr rfl rfl rfl rfl rfl rfl _ _).trans hc
  refine ⟨_, execStep_of_ok (s := (s.setPending p pw).setRd v) hr hc', ?_⟩
  have hend := State.endPixel_setPending_setRd (s.writeFB s.pc (recordOf c)) p pw v
  exact hend ▸ ⟨rfl, rfl, rfl, rfl, rfl⟩

/-- Settles O48: the raster step is one write at pc, then the end of the pixel. -/
theorem rasterStepDrawsOnePixel : Obligations.RasterStepDrawsOnePixel := by
  intro s c hr hc
  refine ⟨_, execStep_of_ok hr hc, writeFB_endPixel_frame s _, ?_, fun a ha => ?_, fun hpc => ?_,
    fun hpc => State.endPixel_raster_of_last (s := s.writeFB s.pc (recordOf c)) hpc⟩
  · rw [memRead_writeFB_endPixel, if_pos rfl]; rfl
  · rw [memRead_writeFB_endPixel, if_neg ha]
  · have hlt := s.pc_lt
    obtain ⟨hpc', hr', hd'⟩ := State.endPixel_raster_of_lt (s := s.writeFB s.pc (recordOf c))
      (by simp only [State.writeFB_pc, Config.npix]; omega)
    exact ⟨hpc', hr'.trans hr, hd'⟩

/-- Settles O49. -/
theorem frameIsOrderIndependent : Obligations.FrameIsOrderIndependent :=
  fun _ _ _ _ hperm => drawAll_perm hperm

/-- Settles O51: START begins the frame at pc 0, and 104448 raster steps draw it to its end. -/
theorem startedFrameIsThePixelFunction : Obligations.StartedFrameIsThePixelFunction := by
  intro s w ign hw hr hlegal hstart hts
  have hstep : step s = .next (s.setTurns []).beginFrame := by
    rw [step_of_command hw hts, hstart]
    exact execStart_of_idle hr
  have htotal (x y : Nat) : ∃ c, pixelIndex (s.setTurns []).beginFrame x y = .ok c :=
    pixelFunctionIsTotal (s.setTurns []).beginFrame hlegal x y
  obtain ⟨t, ht, hend⟩ := run_to_frameEnd (s := (s.setTurns []).beginFrame) (n := 104447) hw rfl rfl htotal
    (Nat.zero_add _)
  refine ⟨t, (run_add 104448 1 _ _ (run_one_of_step hstep)).trans ht, hend.run, hend.done, hend.pc, hend.x, hend.p,
    hend.cg, hend.sb, hend.ca, fun x y hx hy => ?_⟩
  obtain ⟨pos, hpos, rfl, rfl⟩ := exists_pos_of_coord hx hy
  obtain ⟨c, hc, hrec⟩ := hend.drawn pos (Nat.zero_le _)
  exact ⟨c, (pixelIndex_congr rfl rfl rfl rfl rfl rfl _ _).trans hc, hpos ▸ hrec⟩

/-- Settles O5, turn by turn. -/
theorem stepRunsDecodedInstruction : Obligations.StepRunsDecodedInstruction := by
  refine fun s hw => ⟨fun w rest h => step_of_command hw h, fun rest h => step_of_raster hw h,
    fun h => step_of_no_turns hw h, fun m rest h => step_of_access hw h, fun rest i h hr hd => ?_,
    fun rest h hr hd => ?_, fun rest h hr hd => ?_, fun w hlt => step_withFetchWord_hc hw hlt⟩
  · exact (step_of_stage hw h).trans (stageTurn_of_ok (s := s.setTurns rest) hr hd)
  · exact (step_of_stage hw h).trans (stageTurn_of_skip (s := s.setTurns rest) hr hd)
  · exact (step_of_stage hw h).trans (stageTurn_of_reserved (s := s.setTurns rest) hr hd)

/-- Settles O14: each word is one of the forms, and its instruction sets the one register. -/
theorem writeCommandsSetPendingRegisters : Obligations.WriteCommandsSetPendingRegisters := fun _ c ign m =>
  ⟨⟨decodeHc_of_hostWord (.wrBorder c), rfl⟩, ⟨decodeHc_of_hostWord (.wrBg0 c), rfl⟩,
    ⟨decodeHc_of_hostWord (.wrBg1 c), rfl⟩, ⟨decodeHc_of_hostWord (.wrBg2 c), rfl⟩, ⟨decodeHc_wrMode ign m, rfl⟩⟩

/-- Settles O15. -/
theorem startLatchesAndBegins : Obligations.StartLatchesAndBegins := fun _ _ hr => execStart_of_idle hr

/-- Settles O17. -/
theorem startWhileBusyHasNoEffect : Obligations.StartWhileBusyHasNoEffect := fun _ _ hr => execStart_of_busy hr

/-- Settles O19: the words are those of WR.RSVD, and slot 7 is none that `readSlot` gives a value of the state. -/
theorem reservedSlotsIgnoreWrites : Obligations.ReservedSlotsIgnoreWrites :=
  ⟨fun _ a d ha => ⟨decodeHc_of_hostWord (.wrRsvd a d ha), rfl⟩, fun _ _ => rfl⟩

/-- Settles O20: the value RD returns is `readSlot`, slot by slot. -/
theorem readReturnsTheSlot : Obligations.ReadReturnsTheSlot := by
  refine fun s a ign => ⟨readSlot s a, rfl, fun ha => ha ▸ rfl, fun ha => ha ▸ rfl, fun ha => ha ▸ rfl,
    fun ha => ha ▸ rfl, fun ha => ?_, fun ha => ha ▸ rfl, fun ha => ha ▸ rfl, fun ha => ha ▸ s.statusWord_bits⟩
  have hmode : readSlot s 4#3 = 0#3 ++ s.p.mode := rfl
  rw [ha, hmode, BitVec.toNat_append, BitVec.toNat_ofNat, Nat.zero_mod, Nat.zero_shiftLeft, Nat.zero_or]

end Sys2Proof.Proofs

/-! PROOFS. What a step of an invariant state can stop with, what a frame reads once the host has done its boot duty, and the
statements on exceptions and the host's duties (60_exceptions.md). -/

namespace Sys2Proof.Machine

variable {s : State}

/-! ### The turns of an idle block -/

/-- While IDLE a raster step does nothing (44_frame_control.md R175, log 10). -/
theorem execStep_of_idle (h : s.run = .idle) : execStep s = .next s := by
  simp only [execStep, h]

/-- Nor does a stage turn. -/
theorem stageTurn_of_idle {run : Instr → State → Answer} (h : s.run = .idle) : stageTurn run s = .next s := by
  simp only [stageTurn, h]

/-! ### The host's accesses -/

/-- While IDLE a GET of a cell FB does not have faults (log 13). -/
theorem hostAccess_getFB_absent {a : BitVec 17} (hr : s.run = .idle) (ha : 104448 ≤ a.toNat) :
    hostAccess (.getFB a) s = .fault .absentAddress :=
  (whenIdle_of_idle hr _).trans (if_neg (Nat.not_lt.2 ha))

/-- An access that goes through or faults while IDLE does the same under `whenIdle`, or is refused during a frame. -/
theorem whenIdle_cases {k : Answer} (h : (∃ t, k = .next t) ∨ k = .fault .absentAddress) (s : State) :
    (∃ t, whenIdle s k = .next t) ∨ whenIdle s k = .fault .absentAddress ∨
      whenIdle s k = .refused .hostAccessDuringFrame := by
  cases hr : s.run with
  | idle => rw [whenIdle_of_idle hr]; exact h.imp_right .inl
  | busy => exact .inr (.inr (whenIdle_of_busy hr k))

/-- An access of the host goes through, or stops at an address that does not exist, at a frame or at a resize. -/
theorem hostAccess_cases (m : HostAccess) (s : State) :
    ((∃ t, hostAccess m s = .next t) ∨ hostAccess m s = .fault .absentAddress ∨
      hostAccess m s = .refused .hostAccessDuringFrame) ∨ hostAccess m s = .refused .resizedOutOfReset := by
  cases m with
  | reset => exact .inl (.inl ⟨_, rfl⟩)
  | resize => exact .inr rfl
  | setCG | setCA => exact .inl (whenIdle_cases (.inl ⟨_, rfl⟩) s)
  | setSB | getFB =>
    refine .inl (whenIdle_cases ?_ s)
    split
    · exact .inl ⟨_, rfl⟩
    · exact .inr rfl

/-! ### The boot duty (70_reset_and_hazards.md R222) -/

theorem PendingWritten.all_iff (w : PendingWritten) : w.all = true ↔ w = ⟨true, true, true, true, true⟩ := by
  cases w
  simp [PendingWritten.all, and_assoc]

/-- A memory written below n reads as a byte at every address below n. -/
theorem covers_iff_exists {α : Type} (m : List (Nat × α)) (n : Nat) :
    covers m n = true ↔ ∀ a < n, ∃ v, memRead m a = some v := by
  simp only [covers_iff, Option.isSome_iff_exists]

/-- The host has done its boot duty when all five pending registers and every byte a frame can read have been written. -/
theorem State.initialised_iff (s : State) :
    s.initialised = true ↔
      s.pw = ⟨true, true, true, true, true⟩ ∧ (∀ a < 2048, ∃ b, memRead s.cg a = some b) ∧
      (∀ a < 1000, ∃ b, memRead s.sb a = some b) ∧ (∀ a < 1000, ∃ b, memRead s.ca a = some b) := by
  simp only [State.initialised, Bool.and_eq_true, PendingWritten.all_iff, covers_iff_exists, Config.cgUsed, Config.sbSize,
    and_assoc]

/-- A written byte is the same whichever reset's free values stand in the unwritten ones (log 4). -/
theorem State.byteIn_setResets (s : State) {m : List Host.Cell} {a : Nat} (space : Config.InputSpace) (n : Nat)
    (h : ∃ b, memRead m a = some b) : { s with resets := n }.byteIn space m a = s.byteIn space m a := by
  obtain ⟨b, hb⟩ := h
  rw [State.byteIn_of_some space hb, State.byteIn_of_some space hb]

/-- The pixel function reads the active registers, the configuration, and what CG holds below 2048 and SB and CA below
1000. -/
theorem pixelIndex_congr_of_bytes {t : State} (hx : t.x = s.x) (hp : t.platform = s.platform)
    (hcg : ∀ a < 2048, t.byteIn .cg t.cg a = s.byteIn .cg s.cg a)
    (hsb : ∀ a < 1000, t.byteIn .sb t.sb a = s.byteIn .sb s.sb a)
    (hca : ∀ a < 1000, t.byteIn .ca t.ca a = s.byteIn .ca s.ca a) (x y : Nat) : pixelIndex t x y = pixelIndex s x y := by
  by_cases hin : insideVisible (logicalX x) (logicalY y) = true
  · have hidx : (tileSplit (logicalX x) (logicalY y)).index.toNat < 1000 := by
      obtain ⟨-, -, -, -, hidx⟩ := tileSplit_toNat hin
      obtain ⟨-, hlx, -, hly⟩ := (insideVisible_iff _ _).1 hin
      omega
    rw [pixelIndex_visible hin, pixelIndex_visible hin]
    dsimp only
    rw [readCG, readCG, readCA, readCA, hx, hp, hsb _ hidx, hcg _ (glyphAddr_lt _ _), hca _ hidx]
  · rw [pixelIndex_border hin, pixelIndex_border hin, hx]

/-- After the boot duty no pixel depends on the free values of unwritten bytes. -/
theorem pixelIndex_setResets (h : s.initialised = true) (n x y : Nat) :
    pixelIndex { s with resets := n } x y = pixelIndex s x y := by
  obtain ⟨-, hcg, hsb, hca⟩ := s.initialised_iff.1 h
  exact pixelIndex_congr_of_bytes (s := s) (t := { s with resets := n }) rfl rfl
    (fun a ha => s.byteIn_setResets .cg n (hcg a ha)) (fun a ha => s.byteIn_setResets .sb n (hsb a ha))
    (fun a ha => s.byteIn_setResets .ca n (hca a ha)) x y

/-- Nor does its record. -/
theorem pixelRecord_setResets (h : s.initialised = true) (n x y : Nat) :
    pixelRecord { s with resets := n } x y = pixelRecord s x y :=
  congrArg (Except.map recordOf) (pixelIndex_setResets h n x y)

/-- A frame begun does not depend on the active registers before it: START latches the pending ones. -/
theorem State.beginFrame_setActive (s : State) (n : Nat) (active : DisplayRegs) :
    { s with resets := n, x := active }.beginFrame = { s.beginFrame with resets := n } := rfl

/-- To begin a frame leaves what the host has written. -/
theorem State.beginFrame_initialised (s : State) : s.beginFrame.initialised = s.initialised := rfl

end Sys2Proof.Machine

namespace Sys2Proof.Safety

open Sys2Proof.Machine

variable {s : State} {x y : Nat}

/-! ### What a step of an invariant state can stop with -/

/-- A stage turn of an agreeing pixel goes on, or is refused for the byte of CA of its tile. -/
theorem stageTurn_cases (h : PixelAgrees s) :
    (∃ t, stageTurn exec s = .next t) ∨ stageTurn exec s = .refused .attributeHighBits := by
  cases hr : s.run with
  | idle => exact .inl ⟨s, stageTurn_of_idle hr⟩
  | busy =>
    obtain ht | ⟨e, he, ht⟩ := stageTurn_of_agrees h hr
    · exact .inl ht
    · obtain ⟨rfl, -⟩ := pixelIndex_error_iff.1 he
      exact .inr ht

/-- A raster step goes on, or is refused so, in any state. -/
theorem execStep_next_or_refused (s : State) :
    (∃ t, exec .step s = .next t) ∨ exec .step s = .refused .attributeHighBits :=
  (execStep_cases s).imp_right fun ⟨_, _, hx⟩ => hx

/-- A step from a state of the invariant is refused for the configuration, or is an access of the host; else it goes on,
or is refused for a byte of CA. -/
theorem step_cases_of_inv (h : Inv s) :
    step s = .refused .illFormedConfiguration ∨
      (∃ m rest, s.turns = .access m :: rest ∧ step s = hostAccess m (s.setTurns rest)) ∨
      (∃ t, step s = .next t) ∨ step s = .refused .attributeHighBits := by
  by_cases hw : s.platform.wellFormed = true
  · cases hs : s.turns with
    | nil =>
      rw [step_of_no_turns hw hs]
      exact .inr (.inr (execStep_next_or_refused s))
    | cons turn rest =>
      cases turn with
      | raster =>
        rw [step_of_raster hw hs]
        exact .inr (.inr (execStep_next_or_refused (s.setTurns rest)))
      | stage =>
        rw [step_of_stage hw hs]
        exact .inr (.inr (stageTurn_cases (inv_setTurns h rest).pixel))
      | command w =>
        rw [step_of_command hw hs]
        exact .inr (.inr (.inl (exec_hostWord_next (hostWord_decodeHc w) _)))
      | access m => exact .inr (.inl ⟨m, rest, rfl, step_of_access hw hs⟩)
  · exact .inl (step_of_illFormed hw)

/-! ### The bytes of a visible pixel after the boot duty -/

/-- The three bytes a visible pixel reads are ones the host has written. -/
theorem writtenBytes_of_initialised (h : s.initialised = true) (hv : VisibleXY x y) :
    ∃ g b a : Byte, memRead s.sb ((y - 36) / 8 * 40 + (x - 32) / 8) = some g ∧
      memRead s.cg (g.toNat * 8 + (y - 36) % 8) = some b ∧
      memRead s.ca ((y - 36) / 8 * 40 + (x - 32) / 8) = some a := by
  obtain ⟨-, hcg, hsb, hca⟩ := s.initialised_iff.1 h
  obtain ⟨g, hg⟩ := hsb _ (tileOf_lt hv)
  have hrow : g.toNat * 8 + (y - 36) % 8 < 2048 := by have := g.isLt; omega
  obtain ⟨b, hb⟩ := hcg _ hrow
  obtain ⟨a, ha⟩ := hca _ (tileOf_lt hv)
  exact ⟨g, b, a, hg, hb, ha⟩

end Sys2Proof.Safety

namespace Sys2Proof.Proofs

open Sys2Proof.Machine Sys2Proof.Safety

/-! ### The statements of 60_exceptions.md -/

/-- Settles O11: of all a step can answer from such a state, only an access of the host is a fault. -/
theorem noStepFaultsUnderInvariant : Obligations.NoStepFaultsUnderInvariant := by
  intro s h
  obtain hx | ⟨m, rest, hs, hx⟩ | ⟨t, hx⟩ | hx := step_cases_of_inv h
  case inr.inl =>
    rw [hx]
    obtain (⟨t, ht⟩ | ht | ht) | ht := hostAccess_cases m (s.setTurns rest) <;> rw [ht]
    case inl.inr.inl => exact ⟨fun f hf => ⟨(Host.Outcome.fault.inj hf).symm, m, rest, hs⟩, nofun⟩
    all_goals exact ⟨nofun, nofun⟩
  all_goals rw [hx]; exact ⟨nofun, nofun⟩

/-- Settles O46: every byte a pixel reads is a written one, and a frame begun from other active registers is the same frame
with other free values. -/
theorem initialisedFramesReadWrittenBytes : Obligations.InitialisedFramesReadWrittenBytes := by
  refine ⟨fun s n x y h => ⟨pixelIndex_setResets h n x y, pixelRecord_setResets h n x y⟩,
    fun s x y h hv => writtenBytes_of_initialised h hv, fun s n active ign h hr => ?_⟩
  have hframe : s.beginFrame.initialised = true := s.beginFrame_initialised.trans h
  refine ⟨(s.initialised_iff.1 h).1, _, _, execStart_of_idle hr,
    execStart_of_idle (s := { s with resets := n, x := active }) hr, rfl, rfl, fun x y => ?_⟩
  rw [State.beginFrame_setActive]
  exact ⟨pixelIndex_setResets hframe n x y, pixelRecord_setResets hframe n x y⟩

/-- Settles O7, turn by turn. -/
theorem idleBlockKeepsItsState : Obligations.IdleBlockKeepsItsState := by
  refine fun s hr => ⟨execStep_of_idle hr, fun hw hs => ?_, fun rest hw hs => ?_⟩
  · exact (step_of_no_turns hw hs).trans (execStep_of_idle hr)
  · obtain hs | hs := hs
    · exact (step_of_raster hw hs).trans (execStep_of_idle (s := s.setTurns rest) hr)
    · exact (step_of_stage hw hs).trans (stageTurn_of_idle (s := s.setTurns rest) hr)

/-- Settles O54: a GET hands over what the cell holds, if there is one. -/
theorem hostReadsTheSurface : Obligations.HostReadsTheSurface := by
  refine fun s a hr => ⟨fun r ha hcell => ?_, fun ha => ⟨_, hostAccess_getFB_of_idle hr ha⟩,
    fun ha => hostAccess_getFB_absent hr ha⟩
  rw [hostAccess_getFB_of_idle hr ha, State.recordIn_of_some hcell]
  rfl

end Sys2Proof.Proofs

/-! PROOFS. The statement on the host's boot duty (70_reset_and_hazards.md). -/

namespace Sys2Proof.Proofs

open Sys2Proof.Machine

/-- Settles O16: the record of written registers is all true, and each memory covers the addresses a frame reads. -/
theorem initialisedMeansAllWritten : Obligations.InitialisedMeansAllWritten := State.initialised_iff

end Sys2Proof.Proofs
